-- ==== Sys2Proof/Word.lean ====
section
/-! DEFINITION. The fixed widths of the engine (00_scope.md R4). Every quantity is unsigned; bit 0 is the least
significant bit (00_scope.md section 5.1). -/

namespace Sys2Proof

/-- A 32-bit word: an element of `H`, `V`, `W`, `K`, `IV` (R4, R100). -/
abbrev Word := BitVec 32

/-- An 8-bit byte: an element of `MSG`, `PM`, `DIGEST` (R4). -/
abbrev Byte := BitVec 8

/-- The field `IX` of a control word, used as it is (R74, R82). -/
abbrev Index := BitVec 6

/-- Format `CW9`, the control word (R74). -/
abbrev ControlWord := BitVec 9

/-- Format `HC65`, the command word (R75). -/
abbrev CommandWord := BitVec 65

/-- A message length in bytes: the operand of START and the register `MLEN` (R15, R75). -/
abbrev Length := BitVec 64

/-- An index into the message space; 61 bits suffice (R42). -/
abbrev MsgIndex := BitVec 61

end Sys2Proof
end

