-- ==== Sys2Proof/Config.lean ====
section
/-! DEFINITION. The free values: what the spec leaves open and no claim may rest on (10_state.md R27, 44_control.md R191,
93_implementation_defined.md U2, U3). Each is a constant with no body, so nothing can be proved of its value. That a value depends on its arguments alone, and is
thus equal in two machines that give it equal arguments, is the model's choice (DESIGN CHOICE; log 4, 5, 11). -/

namespace Sys2Proof

/-- Byte `k` shown by the `DIGEST` port at the host's read number `r` while `ST` is not FINALIZED: "any 32 bytes",
at every read (R191, U3; log 5). -/
opaque Config.digestDraw (r k : Nat) : Byte

/-- `PadByte(j)` for a length `n` and an index `j` for which R133 defines no byte (log 11). -/
opaque Config.padOutside (n j : Nat) : Byte

/-- `H` after reset event number `k` (R27, R230; log 4). -/
opaque Config.resetH (k : Nat) : Vector Word 8

/-- `V` after reset event number `k` (R27, R230; log 4). -/
opaque Config.resetV (k : Nat) : Vector Word 8

/-- `W` after reset event number `k` (R27, R230; log 4). -/
opaque Config.resetW (k : Nat) : Vector Word 64

/-- `MLEN` after reset event number `k` (R27, R230; log 4). -/
opaque Config.resetMlen (k : Nat) : Length

/-- `BIDX` after reset event number `k` (R27, R230; log 4). -/
opaque Config.resetBidx (k : Nat) : BitVec 56

/-- `UPC` after reset event number `k` (R27, R230; log 4). -/
opaque Config.resetUpc (k : Nat) : ControlWord

end Sys2Proof
end

