-- ==== Sys2Proof/Syntax.lean ====
section
/-! DEFINITION. The engine's six operations, one constructor per row of opcode_table.json (30_encoding.md R76), and the
names under which the decoder rejects a word. -/

namespace Sys2Proof

/-- An operation of the engine (R76). The index of WLD and WEX may be out of range here: WellFormed says which are
operations. -/
inductive Instr where
  /-- `START n`, the host's command: begin hashing a message of `n` bytes (44_control.md R180). -/
  | start (n : Length)
  /-- `WLD i`: load schedule word `i` from the block (42_schedule.md R150). -/
  | wld (i : Index)
  /-- `WEX i`: expand schedule word `i` (42_schedule.md R151). -/
  | wex (i : Index)
  /-- `VINIT`: copy the hash state into the working variables (43_compression.md R161). -/
  | vinit
  /-- `RND i`: compression round `i` (43_compression.md R162). -/
  | rnd (i : Index)
  /-- `ACC`: accumulate, consume the block, finalise after the last (43_compression.md R164). -/
  | acc
  deriving DecidableEq, Repr

/-- Why the decoder gives a word no meaning (30_encoding.md R77, R78). -/
inductive Reject where
  /-- `PH` is 5, 6 or 7. -/
  | reservedPhase
  /-- `PH` = 0 with `IX` >= 16. -/
  | wldIndex
  /-- `PH` = 1 with `IX` <= 15. -/
  | wexIndex
  /-- `PH` = 2 with `IX` not 0. -/
  | vinitIndex
  /-- `PH` = 4 with `IX` not 0. -/
  | accIndex
  /-- A command word with `go` = 0: no command is presented. -/
  | noCommand
  deriving DecidableEq, Repr

/-- The words of one operation, on the path it travels: the command port or the sequencer (R74, R75, R79). -/
inductive Encoded where
  /-- A command word, format `HC65`. -/
  | command (w : CommandWord)
  /-- A control word, format `CW9`. -/
  | control (w : ControlWord)
  deriving DecidableEq, Repr

end Sys2Proof
end

