-- ==== Sys2Proof/WellFormed.lean ====
section
/-! DEFINITION. Which terms of Instr are operations of the engine (30_encoding.md R76). -/

namespace Sys2Proof

/-- `WLD` takes an index 0..15 and `WEX` an index 16..63; every length is a well-formed operand of START (R76, R78). -/
def Instr.wellFormed (i : Instr) : Bool :=
  match i with
  | .start _ => true
  | .wld ix => decide (ix < 16#6)
  | .wex ix => decide (16#6 ≤ ix)
  | .vinit => true
  | .rnd _ => true
  | .acc => true

end Sys2Proof
end

