-- ==== Sys2Proof/Decode.lean ====
section
/-! DEFINITION. Decoding and encoding of control words and command words (30_encoding.md R74 to R79, R82). -/

namespace Sys2Proof

/-- Phase code of WLD (R74). -/
def phWld : BitVec 3 := 0
/-- Phase code of WEX (R74). -/
def phWex : BitVec 3 := 1
/-- Phase code of VINIT (R74). -/
def phVinit : BitVec 3 := 2
/-- Phase code of RND (R74). -/
def phRnd : BitVec 3 := 3
/-- Phase code of ACC (R74). -/
def phAcc : BitVec 3 := 4

/-- The control word with the given fields: `PH` in bits 8..6, `IX` in bits 5..0 (R74). -/
def controlWord (ph : BitVec 3) (ix : Index) : ControlWord := ph ++ ix

/-- Field `PH` of a control word (R74). -/
def phaseOf (w : ControlWord) : BitVec 3 := w.extractLsb' 6 3

/-- Field `IX` of a control word (R74). -/
def indexOf (w : ControlWord) : Index := w.extractLsb' 0 6

/-- Field `go` of a command word: bit 64 (R75). -/
def goOf (w : CommandWord) : Bool := w.getLsbD 64

/-- Field `n` of a command word: bits 63..0 (R75). -/
def lengthOf (w : CommandWord) : Length := w.extractLsb' 0 64

/-- The command word with the given fields (R75). -/
def commandWord (go : BitVec 1) (n : Length) : CommandWord := (go.setWidth 65 <<< 64) ||| n.setWidth 65

/-- What a control word stands for; the 382 reserved words are rejected by name (R76, R77). -/
def decodeControl (w : ControlWord) : Except Reject Instr :=
  if phaseOf w = phWld then
    if indexOf w < 16#6 then .ok (.wld (indexOf w)) else .error .wldIndex
  else if phaseOf w = phWex then
    if 16#6 ≤ indexOf w then .ok (.wex (indexOf w)) else .error .wexIndex
  else if phaseOf w = phVinit then
    if indexOf w = 0#6 then .ok .vinit else .error .vinitIndex
  else if phaseOf w = phRnd then
    .ok (.rnd (indexOf w))
  else if phaseOf w = phAcc then
    if indexOf w = 0#6 then .ok .acc else .error .accIndex
  else
    .error .reservedPhase

/-- What a command word stands for: START when `go` = 1, no command when `go` = 0, whatever `n` holds (R75, R78). -/
def decodeCommand (w : CommandWord) : Except Reject Instr :=
  if goOf w then .ok (.start (lengthOf w)) else .error .noCommand

/-- Decoding of either format; the two travel on different paths, so the format is known (R79). -/
def decode (e : Encoded) : Except Reject Instr :=
  match e with
  | .command w => decodeCommand w
  | .control w => decodeControl w

/-- The word of an operation, from the patterns of R76. -/
def encode (i : Instr) : Encoded :=
  match i with
  | .start n => .command (commandWord 1#1 n)
  | .wld ix => .control (controlWord phWld ix)
  | .wex ix => .control (controlWord phWex ix)
  | .vinit => .control (controlWord phVinit 0#6)
  | .rnd ix => .control (controlWord phRnd ix)
  | .acc => .control (controlWord phAcc 0#6)

/-- The decoder on a row's word as opcode_table.json numbers its bits. A row of 65 bits is a command word, a shorter one a
control word; bits above the format's width must be 0 (log 18). -/
def decodeTableWord (nbits w : Nat) : Option Instr :=
  if nbits < 65 then
    if w < 2 ^ 9 then (decodeControl (BitVec.ofNat 9 w)).toOption else none
  else
    if w < 2 ^ 65 then (decodeCommand (BitVec.ofNat 65 w)).toOption else none

end Sys2Proof
end

