-- ==== Sys2Proof/Machine/State.lean ====
section
/-! DEFINITION. The machine's state as plain data (10_state.md R10), the reasons a step can stop, and the state after
reset (10_state.md R27). -/

namespace Sys2Proof.Machine

/-- The status register `ST`, 2 bits; all four values are legal (R18). -/
inductive Status where
  /-- 0: after reset, no hashing operation has been started. -/
  | idle
  /-- 1: a hashing operation is in progress. -/
  | accumulating
  /-- 2: all blocks consumed, the hash state equals the digest. -/
  | finalized
  /-- 3: a START was refused with a fault; sticky until reset. -/
  | faulted
  deriving DecidableEq, Repr

/-- The fault cause register `FCAUSE`, 2 bits; the values 2 and 3 are never produced (R19, R201, U5; log 22). -/
inductive Cause where
  /-- 0: no fault. -/
  | none
  /-- 1: InputTooLarge. -/
  | inputTooLarge
  deriving DecidableEq, Repr

/-- What the outside world does at one step boundary (60_exceptions.md R206; log 6). -/
structure HostInput where
  /-- The reset input is asserted (70_reset_and_hazards.md R230). -/
  reset : Bool
  /-- The word on the command port (30_encoding.md R75). -/
  cmd : CommandWord
  /-- Bytes the host places in `MSG`, first to last (20_memory.md R40; log 8). -/
  poke : List (MsgIndex × Byte)
  deriving DecidableEq, Repr

/-- The state: the registers of R10, the host's message space, and the model's own two fields. -/
structure State where
  /-- `H[0..7]`, the hash state (R11). -/
  h : Vector Word 8
  /-- `V[0..7]` = a..h, the working variables (R13). -/
  v : Vector Word 8
  /-- `W[0..63]`, the message schedule (R14). -/
  w : Vector Word 64
  /-- `MLEN`, the message length in bytes (R15). -/
  mlen : Length
  /-- `BIDX`, the number of blocks consumed (R16). -/
  bidx : BitVec 56
  /-- `UPC` = (`PH`, `IX`), the sequencer position (R17). -/
  upc : ControlWord
  /-- `ST` (R18). -/
  st : Status
  /-- `FCAUSE` (R19). -/
  fcause : Cause
  /-- `MSG`, in canonical form: addresses strictly rising, no entry equal to what an unlisted address reads as (R40). -/
  msg : List Host.Cell
  /-- The model's own: what the outside world does at the coming step boundaries, soonest first; when the list is
  empty nothing more happens outside (log 6). -/
  inbox : List HostInput
  /-- The model's own: how many reset events have drawn free values (log 4). -/
  draws : Nat
  deriving DecidableEq, Repr

/-- Why the machine stops with a fault: never. The spec's one fault, InputTooLarge, is a next state (R202), and nothing
else faults (60_exceptions.md R204), so there is no constructor (log 23). Safe. -/
inductive Fault where
  deriving DecidableEq, Repr

/-- Why an operation is given no meaning. -/
inductive Refusal where
  /-- Raised by an arm of exec for an instruction that is not modelled; no arm raises it. Safe. -/
  | notModelled (mnemonic : String)
  /-- Raised by the step when `UPC` holds a reserved control word and by the meanings of WLD and WEX on an index outside
  their range, which is such a word: the spec says it must be refused (30_encoding.md R77). No run from reset reaches it.
  Safe. -/
  | reservedControlWord (w : ControlWord)
  deriving DecidableEq, Repr

/-- The machine right after reset: `ST` = IDLE and `FCAUSE` = 0 (R27). The spec leaves every other register unspecified;
the zeros are the model's (DESIGN CHOICE, unsafe; log 2, 3, 4, 6, 9) and no statement rests on them. -/
def State.reset : State where
  h := Vector.replicate 8 0
  v := Vector.replicate 8 0
  w := Vector.replicate 64 0
  mlen := 0
  bidx := 0
  upc := 0
  st := .idle
  fcause := .none
  msg := []
  inbox := []
  draws := 0

end Sys2Proof.Machine
end

