-- ==== Sys2Proof/Machine/Ops.lean ====
section
/-! DEFINITION. The named operations over the message space and the registers, taking the one fault, and reset, which is
its only exit (20_memory.md R40 to R57, 10_state.md, 60_exceptions.md R200 to R203, 70_reset_and_hazards.md R230). -/

namespace Sys2Proof.Machine

/-! ### The message space -/

/-- What an index nothing has been placed at reads as. The spec gives `MSG` no reset contents and says a read cannot fail
(R42, R57): a fixed byte (DESIGN CHOICE, unsafe; log 9). -/
def Memory.unlisted : Byte := 0

/-- The byte at an index: `MemRead(MSG, j, 1)`, which always succeeds and changes nothing (R42). -/
def Memory.read (m : List Host.Cell) (j : Nat) : Byte :=
  match m with
  | [] => Memory.unlisted
  | (a, b) :: rest => if a = j then b else Memory.read rest j

/-- The cells of one byte: none for the byte an unlisted index reads as. -/
def Memory.cell (j : Nat) (b : Byte) : List Host.Cell :=
  if b = Memory.unlisted then [] else [(j, b)]

/-- The host places byte `b` at index `j` (R40), keeping the canonical form. -/
def Memory.write (m : List Host.Cell) (j : Nat) (b : Byte) : List Host.Cell :=
  match m with
  | [] => Memory.cell j b
  | (a, c) :: rest =>
    if j < a then Memory.cell j b ++ (a, c) :: rest
    else if j = a then Memory.cell j b ++ rest
    else (a, c) :: Memory.write rest j b

/-- The host places several bytes, first to last. -/
def Memory.writeAll (m : List Host.Cell) (bytes : List (MsgIndex × Byte)) : List Host.Cell :=
  match bytes with
  | [] => m
  | (j, b) :: rest => Memory.writeAll (Memory.write m j.toNat b) rest

/-- Canonical from address `lo` on: addresses strictly rising, all at least `lo` and below 2^61 (R42), and no entry equal
to what an unlisted index reads as. -/
def Memory.wfFrom (lo : Nat) (m : List Host.Cell) : Bool :=
  match m with
  | [] => true
  | (a, b) :: rest =>
    decide (lo ≤ a) && decide (a < 2 ^ 61) && decide (b ≠ Memory.unlisted) && Memory.wfFrom (a + 1) rest

/-- The canonical form of the message space. -/
def Memory.wf (m : List Host.Cell) : Bool := Memory.wfFrom 0 m

/-- `MSG[j]` (R42). -/
def State.readMsg (s : State) (j : Nat) : Byte := Memory.read s.msg j

/-! ### Register reads and writes, each a whole register (R45) -/

/-- `W[i]` (R14). -/
def State.readW (s : State) (i : Index) : Word := s.w[i.toNat]

/-- a = `V[0]` (R13). -/
def State.varA (s : State) : Word := s.v[0]
/-- b = `V[1]` (R13). -/
def State.varB (s : State) : Word := s.v[1]
/-- c = `V[2]` (R13). -/
def State.varC (s : State) : Word := s.v[2]
/-- d = `V[3]` (R13). -/
def State.varD (s : State) : Word := s.v[3]
/-- e = `V[4]` (R13). -/
def State.varE (s : State) : Word := s.v[4]
/-- f = `V[5]` (R13). -/
def State.varF (s : State) : Word := s.v[5]
/-- g = `V[6]` (R13). -/
def State.varG (s : State) : Word := s.v[6]
/-- h = `V[7]` (R13). -/
def State.varH (s : State) : Word := s.v[7]

/-- Write all of `H` (R11). -/
def State.writeH (s : State) (x : Vector Word 8) : State := { s with h := x }
/-- Write all of `V` at once (R13). -/
def State.writeV (s : State) (x : Vector Word 8) : State := { s with v := x }
/-- Write `W[i]` (R14). -/
def State.writeW (s : State) (i : Index) (x : Word) : State := { s with w := s.w.set i.toNat x }
/-- Write `MLEN` (R15). -/
def State.writeMlen (s : State) (x : Length) : State := { s with mlen := x }
/-- Write `BIDX` (R16). -/
def State.writeBidx (s : State) (x : BitVec 56) : State := { s with bidx := x }
/-- Write `UPC`, the engine's control transfer (R17). -/
def State.writeUpc (s : State) (x : ControlWord) : State := { s with upc := x }
/-- Write `ST` (R18). -/
def State.writeSt (s : State) (x : Status) : State := { s with st := x }
/-- Write `FCAUSE` (R19). -/
def State.writeFcause (s : State) (x : Cause) : State := { s with fcause := x }

/-! ### Taking the fault and leaving it -/

/-- `raise InputTooLarge(n)`: `ST <- FAULTED`, `FCAUSE <- 1`, `MLEN <- n`, and nothing else changes (R202). -/
def State.takeInputTooLarge (s : State) (n : Length) : State :=
  ((s.writeSt .faulted).writeFcause .inputTooLarge).writeMlen n

/-- The reset event, the only exit from FAULTED (R203, R230): `ST <- IDLE`, `FCAUSE <- 0`, every other register
unspecified, that is a free value; `MSG` is not touched (R231). That the free values depend on `draws` alone, so that two
machines with equal `draws` draw equal values, is the model's choice, not R27's (DESIGN CHOICE, unsafe for a claim that
compares two machines after a reset; log 4). -/
def State.resetEvent (s : State) : State :=
  { s with
    h := Config.resetH s.draws
    v := Config.resetV s.draws
    w := Config.resetW s.draws
    mlen := Config.resetMlen s.draws
    bidx := Config.resetBidx s.draws
    upc := Config.resetUpc s.draws
    st := .idle
    fcause := .none
    draws := s.draws + 1 }

/-- Set up a hashing operation of `n` bytes: `H <- IV`, `MLEN <- n`, `BIDX <- 0`, `UPC <- (WLD, 0)`,
`ST <- ACCUMULATING` (44_control.md R180). -/
def State.beginRun (s : State) (n : Length) : State :=
  ((((s.writeH romIV).writeMlen n).writeBidx 0).writeUpc (controlWord phWld 0)).writeSt .accumulating

end Sys2Proof.Machine
end

