-- ==== Sys2Proof/Machine/Padding.lean ====
section
/-! DEFINITION. The padder's arithmetic (41_padding.md R130 to R133, 10_state.md R22), on unbounded naturals as
40_alu.md R115 allows. -/

namespace Sys2Proof.Machine

/-- The number of 0x00 bytes appended, `z(n) = (55 − n) mod 64`, the `mod` taken into 0..63 (R131). -/
def zeroFill (n : Nat) : Nat := (64 + 55 - n % 64) % 64

/-- `NBLK`, the number of blocks of the padded message of an n-byte message (R22, R132). -/
def nblk (n : Nat) : Nat := (n + 8) / 64 + 1

/-- `PLEN`, the padded length in bytes (R22, R132). -/
def plen (n : Nat) : Nat := 64 * nblk n

/-- The lengths below `MAXBYTES + 1` = 2^61, for which the padder is defined (R4, R130). -/
def lengthLimit : Nat := 2 ^ 61

/-- `BE64BYTE(v, k)`: byte k, k = 0 most significant, of a 64-bit value (30_encoding.md R71). -/
def be64Byte (v k : Nat) : Byte := BitVec.ofNat 8 (v >>> (8 * (7 - k)))

/-- What stands at an index of the padded message. -/
inductive PadSource where
  /-- A byte of the message: the only case that reads `MSG`. -/
  | message
  /-- A byte the padder supplies itself. -/
  | fill (b : Byte)
  /-- No byte: R133 defines none here (log 11). -/
  | outside
  deriving DecidableEq, Repr

/-- The case split of `PadByte(j)` for a message of n bytes (R133). -/
def padSource (n j : Nat) : PadSource :=
  if n < lengthLimit ∧ j < plen n then
    if j < n then .message
    else if j = n then .fill 0x80
    else if j < plen n - 8 then .fill 0x00
    else .fill (be64Byte (8 * n) (j - (plen n - 8)))
  else .outside

end Sys2Proof.Machine
end

