-- ==== Sys2Proof/Machine/Flags.lean ====
section
/-! DEFINITION. The engine has no flags (10_state.md R23). What steers control instead: the comparison inside ACC, the
length check of START and the test of `ST` a command meets. -/

namespace Sys2Proof.Machine

/-- `BIDX + 1 = NBLK`: the block in progress is the last (R23, 43_compression.md R164). -/
def State.lastBlock (s : State) : Bool := decide (s.bidx.toNat + 1 = nblk s.mlen.toNat)

/-- `n >= 2^61`: the bit length does not fit the 64-bit length field (60_exceptions.md R200). -/
def tooLarge (n : Length) : Bool := decide (lengthLimit ≤ n.toNat)

/-- A command is accepted only in IDLE and FINALIZED (44_control.md R180, R181). -/
def Status.accepts (x : Status) : Bool :=
  match x with
  | .idle => true
  | .accumulating => false
  | .finalized => true
  | .faulted => false

end Sys2Proof.Machine
end

