-- ==== Sys2Proof/Machine/Command.lean ====
section
/-! DEFINITION. The host command START (44_control.md R180, R181, 60_exceptions.md R200, R202). -/

namespace Sys2Proof.Machine

/-- `START n`: ignored unless `ST` is IDLE or FINALIZED (R181); the length check comes before everything else (R200,
R206); otherwise a hashing operation begins (R180). -/
def execStart (n : Length) (s : State) : Host.Outcome State Fault Refusal :=
  if s.st.accepts then
    if tooLarge n then .next (s.takeInputTooLarge n) else .next (s.beginRun n)
  else .next s

end Sys2Proof.Machine
end

