-- ==== Sys2Proof/Machine/Alu.lean ====
section
/-! DEFINITION. The modular 32-bit ALU and the six SHA-256 functions (40_alu.md R100 to R112). AND, XOR and NOT (R104 to
R106) are Lean's `&&&`, `^^^` and `~~~` on words. No function has a flag or an exception. -/

namespace Sys2Proof.Machine

/-- `x +32 y`: addition modulo 2^32, the carry discarded (R101). -/
def add32 (x y : Word) : Word := x + y

/-- `ROTR(x, n)`: result bit i is x bit (i + n) mod 32 (R102). The engine uses amounts 1..31 only; outside them this is the
extension D16 suggests, n taken mod 32 (log 14). -/
def rotr (x : Word) (n : Nat) : Word := x.rotateRight n

/-- `SHR(x, n)` = x div 2^n (R103; outside 1..31, log 14). -/
def shr (x : Word) (n : Nat) : Word := x >>> n

/-- The exclusive or of three rotations of one word, the shape R109 and R111 share. -/
def rotations (x : Word) (i j k : Nat) : Word := rotr x i ^^^ rotr x j ^^^ rotr x k

/-- The exclusive or of two rotations and a shift of one word, the shape R107 and R108 share. -/
def rotationsShift (x : Word) (i j k : Nat) : Word := rotr x i ^^^ rotr x j ^^^ shr x k

/-- `ssig0`, the source's σ0: `ROTR(x, 7) XOR ROTR(x, 18) XOR SHR(x, 3)` (R107). -/
def ssig0 (x : Word) : Word := rotationsShift x 7 18 3

/-- `ssig1`, the source's σ1: `ROTR(x, 17) XOR ROTR(x, 19) XOR SHR(x, 10)` (R108). -/
def ssig1 (x : Word) : Word := rotationsShift x 17 19 10

/-- `bsig1`, the source's Σ1: `ROTR(x, 6) XOR ROTR(x, 11) XOR ROTR(x, 25)` (R109). -/
def bsig1 (x : Word) : Word := rotations x 6 11 25

/-- `Ch`, bitwise selection (R110). -/
def ch (x y z : Word) : Word := (x &&& y) ^^^ (~~~x &&& z)

/-- `bsig0`, the source's Σ0: `ROTR(x, 2) XOR ROTR(x, 13) XOR ROTR(x, 22)` (R111). -/
def bsig0 (x : Word) : Word := rotations x 2 13 22

/-- `Maj`, bitwise majority (R112). -/
def maj (x y z : Word) : Word := (x &&& y) ^^^ (x &&& z) ^^^ (y &&& z)

end Sys2Proof.Machine
end

