-- ==== Sys2Proof/Machine/Operands.lean ====
section
/-! DEFINITION. How operands are assembled: the data formats (30_encoding.md R70 to R73), the padded message seen by WLD
(41_padding.md R133), the taps of WEX (42_schedule.md R151) and the temporaries of RND (43_compression.md R162). -/

namespace Sys2Proof.Machine

/-- `BE32(b0, b1, b2, b3)`: the first byte is the most significant (R70). -/
def be32 (b0 b1 b2 b3 : Byte) : Word := b0 ++ b1 ++ b2 ++ b3

/-- Byte k of a word, k = 0 the most significant: `(x >> (8*(3−k))) mod 256` (R47, R70). -/
def beByte (x : Word) (k : Fin 4) : Byte := x.extractLsb' (8 * (3 - k.val)) 8

/-- `PM[j] = PadByte(j)` (R43, R133). -/
def State.padByte (s : State) (j : Nat) : Byte :=
  match padSource s.mlen.toNat j with
  | .message => s.readMsg j
  | .fill b => b
  | .outside => Config.padOutside s.mlen.toNat j

/-- The index in the padded message of the first byte of word `i` of the block in progress (R16, R150). -/
def State.wordBase (s : State) (i : Index) : Nat := 64 * s.bidx.toNat + 4 * i.toNat

/-- Word `i` of the block in progress, big-endian (R46, R150). -/
def State.blockWord (s : State) (i : Index) : Word :=
  be32 (s.padByte (s.wordBase i)) (s.padByte (s.wordBase i + 1))
    (s.padByte (s.wordBase i + 2)) (s.padByte (s.wordBase i + 3))

/-- The `MSG` indices WLD i reads, in order: those of its four bytes that lie in the message (R50). -/
def State.wordReads (s : State) (i : Index) : List Nat :=
  [s.wordBase i, s.wordBase i + 1, s.wordBase i + 2, s.wordBase i + 3].filter
    fun j => padSource s.mlen.toNat j = .message

/-- The sum WEX i writes: `W[i−16] +32 ssig0(W[i−15]) +32 W[i−7] +32 ssig1(W[i−2])` (R151). -/
def State.expandWord (s : State) (i : Index) : Word :=
  add32 (add32 (add32 (s.readW (i - 16)) (ssig0 (s.readW (i - 15)))) (s.readW (i - 7))) (ssig1 (s.readW (i - 2)))

/-- T1 of RND i: `h +32 bsig1(e) +32 Ch(e, f, g) +32 K[i] +32 W[i]` (R162). -/
def State.roundT1 (s : State) (i : Index) : Word :=
  add32 (add32 (add32 (add32 s.varH (bsig1 s.varE)) (ch s.varE s.varF s.varG)) (romK i)) (s.readW i)

/-- T2 of a round: `bsig0(a) +32 Maj(a, b, c)` (R162). -/
def State.roundT2 (s : State) : Word := add32 (bsig0 s.varA) (maj s.varA s.varB s.varC)

/-- The eight working variables after RND i, all from the values before it (R162, R241). -/
def State.roundV (s : State) (i : Index) : Vector Word 8 :=
  #v[add32 (s.roundT1 i) s.roundT2, s.varA, s.varB, s.varC,
     add32 s.varD (s.roundT1 i), s.varE, s.varF, s.varG]

/-- The hash state after ACC: `H[j] +32 V[j]` (R164). -/
def State.sumHV (s : State) : Vector Word 8 :=
  #v[add32 s.h[0] s.v[0], add32 s.h[1] s.v[1], add32 s.h[2] s.v[2], add32 s.h[3] s.v[3],
     add32 s.h[4] s.v[4], add32 s.h[5] s.v[5], add32 s.h[6] s.v[6], add32 s.h[7] s.v[7]]

end Sys2Proof.Machine
end

