-- ==== Sys2Proof/Machine/Sequencer.lean ====
section
/-! DEFINITION. The successor function, the engine's only control transfer, a finite table (44_control.md R184). ACC
chooses between its two successors itself. -/

namespace Sys2Proof.Machine

/-- After `WLD i`: `WLD i+1`, or `WEX 16` after `WLD 15`. -/
def afterWld (i : Index) : ControlWord := if i < 15#6 then controlWord phWld (i + 1) else controlWord phWex 16

/-- After `WEX i`: `WEX i+1`, or `VINIT` after `WEX 63`. -/
def afterWex (i : Index) : ControlWord := if i < 63#6 then controlWord phWex (i + 1) else controlWord phVinit 0

/-- After `VINIT`: `RND 0`. -/
def afterVinit : ControlWord := controlWord phRnd 0

/-- After `RND i`: `RND i+1`, or `ACC` after `RND 63`. -/
def afterRnd (i : Index) : ControlWord := if i < 63#6 then controlWord phRnd (i + 1) else controlWord phAcc 0

/-- After an `ACC` that is not the last: `WLD 0`. -/
def nextBlock : ControlWord := controlWord phWld 0

end Sys2Proof.Machine
end

