-- ==== Sys2Proof/Machine/Compression.lean ====
section
/-! DEFINITION. The compression stage: VINIT, RND and ACC (43_compression.md R161, R162, R164). -/

namespace Sys2Proof.Machine

/-- `VINIT`: the working variables get the hash state (R161). -/
def execVinit (s : State) : Host.Outcome State Fault Refusal :=
  .next ((s.writeV s.h).writeUpc afterVinit)

/-- `RND i`: one round, all eight writes simultaneous (R162). -/
def execRnd (i : Index) (s : State) : Host.Outcome State Fault Refusal :=
  .next ((s.writeV (s.roundV i)).writeUpc (afterRnd i))

/-- `ACC`: `H` gets the sums and `BIDX` counts the block; after the last block `ST <- FINALIZED` and `UPC` keeps its value,
else `UPC` goes to `WLD 0` (R164; the width of `BIDX`, log 12). -/
def execAcc (s : State) : Host.Outcome State Fault Refusal :=
  if s.lastBlock then .next (((s.writeH s.sumHV).writeBidx (s.bidx + 1)).writeSt .finalized)
  else .next (((s.writeH s.sumHV).writeBidx (s.bidx + 1)).writeUpc nextBlock)

end Sys2Proof.Machine
end

