-- ==== Sys2Proof/Machine/Schedule.lean ====
section
/-! DEFINITION. The schedule expander: WLD and WEX (42_schedule.md R150, R151). -/

namespace Sys2Proof.Machine

/-- `WLD i`: `W[i]` gets word i of the block (R150). An index above 15 is a reserved control word (R77; log 13). -/
def execWld (i : Index) (s : State) : Host.Outcome State Fault Refusal :=
  if i < 16#6 then .next ((s.writeW i (s.blockWord i)).writeUpc (afterWld i))
  else .refused (.reservedControlWord (controlWord phWld i))

/-- `WEX i`: `W[i]` gets the four-term sum (R151). An index below 16 is a reserved control word (R77; log 13). -/
def execWex (i : Index) (s : State) : Host.Outcome State Fault Refusal :=
  if 16#6 ≤ i then .next ((s.writeW i (s.expandWord i)).writeUpc (afterWex i))
  else .refused (.reservedControlWord (controlWord phWex i))

end Sys2Proof.Machine
end

