-- ==== Sys2Proof/Machine/Dispatch.lean ====
section
/-! DEFINITION. One arm per operation (30_encoding.md R76). An engine operation's meaning is its rule's pseudocode and is
not guarded by `ST`: the step runs it only when `UPC` names it in ACCUMULATING (44_control.md R183; log 16). -/

namespace Sys2Proof.Machine

def exec (i : Instr) (s : State) : Host.Outcome State Fault Refusal :=
  match i with
  | .start n => Sys2Proof.Machine.execStart n s
  | .wld ix => Sys2Proof.Machine.execWld ix s
  | .wex ix => Sys2Proof.Machine.execWex ix s
  | .vinit => Sys2Proof.Machine.execVinit s
  | .rnd ix => Sys2Proof.Machine.execRnd ix s
  | .acc => Sys2Proof.Machine.execAcc s

end Sys2Proof.Machine
end

