-- ==== Sys2Proof/Machine/Fetch.lean ====
section
/-! DEFINITION. What happens at a step boundary: which of reset, a command and the engine moves (60_exceptions.md R206),
and which operation runs (44_control.md R183). -/

namespace Sys2Proof.Machine

/-- Nothing happens outside: no reset, no command (`go` = 0), no byte placed. -/
def quiet : HostInput where
  reset := false
  cmd := 0
  poke := []

/-- What the outside world does at this boundary. -/
def State.pins (s : State) : HostInput := s.inbox.headD quiet

/-- The boundary passes: the host's bytes land in `MSG` before anything else happens at it (log 8), and the input is used
up: nothing is queued or replayed (R24, R231). -/
def State.boundary (s : State) : State :=
  { s with inbox := s.inbox.tail, msg := Memory.writeAll s.msg s.pins.poke }

/-- What moves at a boundary. -/
inductive Fetched where
  /-- Reset is applied alone. -/
  | reset
  /-- This operation runs: a presented command or the engine's. -/
  | run (i : Instr)
  /-- The engine has no step and nothing is presented. -/
  | idle
  /-- `UPC` holds a reserved control word. -/
  | reserved (w : ControlWord)
  deriving DecidableEq, Repr

/-- The engine has a step exactly when `ST` = ACCUMULATING, and then runs the operation at `UPC` (R183). -/
def State.engineFetch (s : State) : Fetched :=
  match s.st with
  | .accumulating =>
    match decodeControl s.upc with
    | .ok i => .run i
    | .error _ => .reserved s.upc
  | .idle => .idle
  | .finalized => .idle
  | .faulted => .idle

/-- Reset wins, then a presented command, then the engine's step (R206). -/
def State.fetch (s : State) : Fetched :=
  if s.pins.reset then .reset
  else
    match decodeCommand s.pins.cmd with
    | .ok i => .run i
    | .error _ => s.engineFetch

/-- `s` with the row's word placed where the next step takes its operation from: a command word on the command port at the
next boundary, a control word in `UPC` with `ST` = ACCUMULATING and nothing presented at the next boundary (log 18). -/
def State.placeFetch (s : State) (nbits w : Nat) : State :=
  if nbits < 65 then
    { s with upc := BitVec.ofNat 9 w, st := .accumulating, inbox := quiet :: s.inbox }
  else
    { s with inbox := { quiet with cmd := BitVec.ofNat 65 w } :: s.inbox }

end Sys2Proof.Machine
end

