-- ==== Sys2Proof/Machine/Step.lean ====
section
/-! DEFINITION. One step: one boundary and what moves at it (44_control.md R183, 60_exceptions.md R206). -/

namespace Sys2Proof.Machine

/-- One step of the machine. When nothing moves, nothing changes but the boundary's own input (R183; log 15). -/
def step (s : State) : Host.Outcome State Fault Refusal :=
  match s.fetch with
  | .reset => .next s.boundary.resetEvent
  | .run i => exec i s.boundary
  | .idle => .next s.boundary
  | .reserved w => .refused (.reservedControlWord w)

/-- `s` with the table row's word where step takes its next operation from (log 18). -/
def State.withFetchWord (s : State) (nbits w : Nat) : State := s.placeFetch nbits w

end Sys2Proof.Machine
end

