-- ==== Sys2Proof/Machine/Ports.lean ====
section
/-! DEFINITION. The ports the host reads (44_control.md R190 to R192, 10_state.md section 5). A read changes nothing, so
each port is a function of the state (log 17). -/

namespace Sys2Proof.Machine

/-- The value of `ST` as the host reads it (R18). -/
def Status.code (x : Status) : BitVec 2 :=
  match x with
  | .idle => 0
  | .accumulating => 1
  | .finalized => 2
  | .faulted => 3

/-- The value of `FCAUSE` as the host reads it (R19). -/
def Cause.code (x : Cause) : BitVec 2 :=
  match x with
  | .none => 0
  | .inputTooLarge => 1

/-- The status port (R192). -/
def State.statusPort (s : State) : BitVec 2 := s.st.code

/-- The fault cause port (R192). -/
def State.causePort (s : State) : BitVec 2 := s.fcause.code

/-- The derived level `busy` (R192). -/
def State.busy (s : State) : Bool := decide (s.st = .accumulating)

/-- The derived level `done` (R192). -/
def State.done (s : State) : Bool := decide (s.st = .finalized)

/-- A word as four bytes, most significant first (R47). -/
def wordBytes (x : Word) : List Byte := [beByte x 0, beByte x 1, beByte x 2, beByte x 3]

/-- Eight words as 32 bytes, big-endian: `DIGEST[4j+k] = (H[j] >> (8*(3−k))) mod 256` (R47, R73). -/
def imageOf (h : Vector Word 8) : List Byte :=
  wordBytes h[0] ++ wordBytes h[1] ++ wordBytes h[2] ++ wordBytes h[3] ++
  wordBytes h[4] ++ wordBytes h[5] ++ wordBytes h[6] ++ wordBytes h[7]

/-- `DIGEST[0..31]` at the host's read number `r`: the digest while `ST` = FINALIZED (R190); otherwise any 32 bytes, fresh at
every read and no image of `H` (R191; log 5). -/
def State.digestPort (s : State) (r : Nat) : List Byte :=
  if s.done then imageOf s.h else (List.range 32).map (Config.digestDraw r)

/-- The control and status registers by their reference numbers CR0 to CR4 (10_state.md section 5). -/
inductive ControlReg where
  /-- CR0. -/
  | st
  /-- CR1. -/
  | fcause
  /-- CR2. -/
  | mlen
  /-- CR3. -/
  | bidx
  /-- CR4. -/
  | upc
  deriving DecidableEq, Repr

/-- The number of a control register. -/
def ControlReg.number (c : ControlReg) : Nat :=
  match c with
  | .st => 0
  | .fcause => 1
  | .mlen => 2
  | .bidx => 3
  | .upc => 4

/-- What the host reads of a control register: `ST` and `FCAUSE`, and nothing of the other three (R25). -/
def State.hostReads (s : State) (c : ControlReg) : Option (BitVec 2) :=
  match c with
  | .st => some s.statusPort
  | .fcause => some s.causePort
  | .mlen => none
  | .bidx => none
  | .upc => none

end Sys2Proof.Machine
end

