-- ==== Sys2Proof/Safety.lean ====
section
/-! DEFINITION. The terms claims are stated in: the invariant of the machine, the pseudo-operations and traces of a run
(30_encoding.md R80, R81), and the function the engine computes, written from the rules as a function on byte strings
(41_padding.md R130, 43_compression.md R166, 44_control.md R188). -/

namespace Sys2Proof.Machine

/-! ### The invariant -/

/-- One of the 130 control words that name an operation (R76). -/
def legalWord (w : ControlWord) : Bool :=
  match decodeControl w with
  | .ok _ => true
  | .error _ => false

/-- What holds of every state a run from reset reaches: the message space is in canonical form; `FCAUSE` is 1 exactly in
FAULTED (R19); in ACCUMULATING `UPC` is a legal position (R17), the length fits (R15) and a block is left (R16, R184); in
FINALIZED every block is consumed (R164); in FAULTED `MLEN` holds the offending length (R202). -/
structure Inv (s : State) : Prop where
  msg_wf : Memory.wf s.msg = true
  cause : s.fcause = .inputTooLarge ↔ s.st = .faulted
  upc_legal : s.st = .accumulating → legalWord s.upc = true
  running : s.st = .accumulating → s.mlen.toNat < lengthLimit ∧ s.bidx.toNat < nblk s.mlen.toNat
  finished : s.st = .finalized → s.mlen.toNat < lengthLimit ∧ s.bidx.toNat = nblk s.mlen.toNat
  refused : s.st = .faulted → lengthLimit ≤ s.mlen.toNat

/-! ### Runs and what is seen of them -/

/-- The state after one step, when there is one. -/
def State.after (s : State) : State :=
  match step s with
  | .next t => t
  | .fault _ => s
  | .refused _ => s

/-- The operation a step runs, as a list of none or one. -/
def Fetched.ops (f : Fetched) : List Instr :=
  match f with
  | .run i => [i]
  | .reset => []
  | .idle => []
  | .reserved _ => []

/-- The operations of the next k steps, in the order executed: a trace in the sense of R80. -/
def opsRun (k : Nat) (s : State) : List Instr :=
  match k with
  | 0 => []
  | k + 1 => s.fetch.ops ++ opsRun k s.after

/-- The `MSG` indices the next step reads, in order (R50): only a WLD reads any. -/
def State.stepReads (s : State) : List Nat :=
  match s.fetch with
  | .run (.wld i) => s.boundary.wordReads i
  | _ => []

/-- The `MSG` indices read in the next k steps, in order: the third observable of R246. -/
def readsRun (k : Nat) (s : State) : List Nat :=
  match k with
  | 0 => []
  | k + 1 => s.stepReads ++ readsRun k s.after

/-- The pseudo-operation `SCHED` (R81). -/
def schedOps : List Instr :=
  (List.range 16).map (fun i => Instr.wld (BitVec.ofNat 6 i)) ++
  (List.range 48).map (fun i => Instr.wex (BitVec.ofNat 6 (16 + i)))

/-- The pseudo-operation `COMPRESS` (R81). -/
def compressOps : List Instr :=
  Instr.vinit :: (List.range 64).map (fun i => Instr.rnd (BitVec.ofNat 6 i)) ++ [Instr.acc]

/-- The pseudo-operation `BLOCK` (R81). -/
def blockOps : List Instr := schedOps ++ compressOps

/-- The pseudo-operation `HASH n` (R81). -/
def hashOps (n : Length) : List Instr :=
  Instr.start n :: (List.replicate (nblk n.toNat) blockOps).flatten

/-- The number of engine operations of a run: 130 for each block (R185). -/
def runLength (n : Nat) : Nat := 130 * nblk n

/-- `s` is a state right after an accepted START that nothing outside disturbs any more (R180). -/
structure Started (s : State) : Prop where
  status : s.st = .accumulating
  position : s.upc = controlWord phWld 0
  block : s.bidx = 0
  hash : s.h = romIV
  length : s.mlen.toNat < lengthLimit
  undisturbed : s.inbox = []

/-! ### The function computed -/

/-- The source's padding procedure: the message, 0x80, the zero bytes, the bit length as eight bytes, most significant
first (R130, R138). -/
def paddedMessage (m : List Byte) : List Byte :=
  m ++ [0x80] ++ List.replicate (zeroFill m.length) 0x00 ++ (List.range 8).map (be64Byte (8 * m.length))

/-- Block t of a padded message (R134). -/
def blockBytes (p : List Byte) (t : Nat) : List Byte := (p.drop (64 * t)).take 64

/-- The sixteen big-endian words of a block (R70, R166). -/
def blockWords (blk : List Byte) : List Word :=
  (List.range 16).map fun i =>
    be32 (blk.getD (4 * i) 0) (blk.getD (4 * i + 1) 0) (blk.getD (4 * i + 2) 0) (blk.getD (4 * i + 3) 0)

/-- The next word of a schedule of at least 16 words, from the words 16, 15, 7 and 2 before it (R166). -/
def nextScheduleWord (ws : List Word) : Word :=
  ws.getD (ws.length - 16) 0 + ssig0 (ws.getD (ws.length - 15) 0) + ws.getD (ws.length - 7) 0 +
    ssig1 (ws.getD (ws.length - 2) 0)

/-- A schedule with k further words. -/
def extendSchedule (k : Nat) (ws : List Word) : List Word :=
  match k with
  | 0 => ws
  | k + 1 => extendSchedule k (ws ++ [nextScheduleWord ws])

/-- The 64 schedule words of a block (R166). -/
def scheduleOf (blk : List Byte) : List Word := extendSchedule 48 (blockWords blk)

/-- The round map of R162 with constant k and schedule word w. -/
def roundMap (x : Vector Word 8) (k w : Word) : Vector Word 8 :=
  let t1 := x[7] + bsig1 x[4] + ch x[4] x[5] x[6] + k + w
  let t2 := bsig0 x[0] + maj x[0] x[1] x[2]
  #v[t1 + t2, x[0], x[1], x[2], x[3] + t1, x[4], x[5], x[6]]

/-- The working variables after the first k rounds (R166). -/
def roundsOf (hin : Vector Word 8) (ws : List Word) (k : Nat) : Vector Word 8 :=
  match k with
  | 0 => hin
  | k + 1 => roundMap (roundsOf hin ws k) (kTable.getD k 0) (ws.getD k 0)

/-- Element-wise addition modulo 2^32. -/
def addVec (x y : Vector Word 8) : Vector Word 8 :=
  #v[x[0] + y[0], x[1] + y[1], x[2] + y[2], x[3] + y[3], x[4] + y[4], x[5] + y[5], x[6] + y[6], x[7] + y[7]]

/-- `comp(Hin, blk)`: the effect of one block on the hash state (R166, R188). -/
def compBlock (hin : Vector Word 8) (blk : List Byte) : Vector Word 8 :=
  addVec hin (roundsOf hin (scheduleOf blk) 64)

/-- `h_t`: the hash state after t blocks of a padded message (R188). -/
def hashAfter (p : List Byte) (t : Nat) : Vector Word 8 :=
  match t with
  | 0 => romIV
  | t + 1 => compBlock (hashAfter p t) (blockBytes p t)

/-- The digest of a message (R188). -/
def digestOf (m : List Byte) : List Byte := imageOf (hashAfter (paddedMessage m) (nblk m.length))

/-- The first n bytes of a message space. -/
def messageIn (mem : List Host.Cell) (n : Nat) : List Byte := (List.range n).map (Memory.read mem)

/-! ### The terms of the constants' defining formula (R20, R21) -/

/-- `p` is prime, by trial division. -/
def trialPrime (p : Nat) : Bool := decide (2 ≤ p) && (List.range p).all fun d => decide (d < 2) || decide (p % d ≠ 0)

/-- The primes up to 311 in order: the first 64 (R20). -/
def firstPrimes : List Nat := (List.range 312).filter trialPrime

end Sys2Proof.Machine
end

