-- ==== Sys2Proof/Certificates/Slice0/Obligations.lean ====
section
/-! DEFINITION. The statements put to the provers, from the spec's numbered rules. Register contents are written as the
rules write them; control words are written as the numbers of 44_control.md R184. -/

open Sys2Proof Sys2Proof.Machine

/-! ### Encodings (30_encoding.md) -/

/-- R74, R75, R76: no bit of an encoding is dropped. -/
def Obligations.DecodeInvertsEncode : Prop :=
  ∀ i : Instr, i.wellFormed = true → decode (encode i) = .ok i

/-- R76, R77, R79: a word that has a meaning is the encoding of that one well-formed operation. -/
def Obligations.MeaningfulWordIsItsEncoding : Prop :=
  ∀ (e : Encoded) (i : Instr), decode e = .ok i → i.wellFormed = true ∧ encode i = e

/-- R77, U4: which control words are reserved, that there are 382, that the decoder refuses each, and that no state a run
reaches holds one where the engine would execute it. That the step too refuses one, by the name reservedControlWord, is the
model's reading of R77 and of R183, whose step decodes `UPC` (log 13, DEDUCED): R77 speaks of the decoder only. -/
def Obligations.ReservedWordsAreRefusedAndNeverOccur : Prop :=
  (∀ w : ControlWord, legalWord w = false ↔
    (5#3 ≤ phaseOf w ∨ (phaseOf w = 0#3 ∧ 16#6 ≤ indexOf w) ∨ (phaseOf w = 1#3 ∧ indexOf w < 16#6) ∨
      (phaseOf w = 2#3 ∧ indexOf w ≠ 0#6) ∨ (phaseOf w = 4#3 ∧ indexOf w ≠ 0#6))) ∧
  ((List.range 512).filter fun n => !legalWord (BitVec.ofNat 9 n)).length = 382 ∧
  (∀ w : ControlWord, legalWord w = false → ∃ r, decodeControl w = .error r) ∧
  (∀ s : State, s.st = .accumulating → s.inbox = [] → legalWord s.upc = false →
    step s = .refused (.reservedControlWord s.upc)) ∧
  (∀ (s : State) (w : ControlWord), Inv s → s.fetch ≠ .reserved w)

/-- Words written out bit by bit from the patterns of R76, and reserved ones of R77. -/
def Obligations.WrittenOutWordsDecode : Prop :=
  decodeControl 0b000001111#9 = .ok (.wld 15) ∧ decodeControl 0b001010000#9 = .ok (.wex 16) ∧
  decodeControl 0b001111111#9 = .ok (.wex 63) ∧ decodeControl 0b010000000#9 = .ok .vinit ∧
  decodeControl 0b011000101#9 = .ok (.rnd 5) ∧ decodeControl 0b100000000#9 = .ok .acc ∧
  decodeCommand 0x10000000000000003#65 = .ok (.start 3) ∧
  decodeControl 0b000010000#9 = .error .wldIndex ∧ decodeControl 0b001001111#9 = .error .wexIndex ∧
  decodeControl 0b101000000#9 = .error .reservedPhase ∧ decodeCommand 0x0ffffffffffffffff#65 = .error .noCommand

/-- R78: the field n of a command word with go = 0 makes no difference to a step, and the boundary passes as if the port
were quiet. -/
def Obligations.WordWithoutGoCausesNothing : Prop :=
  ∀ (s : State) (r : Bool) (n : Length) (p : List (MsgIndex × Byte)) (rest : List HostInput),
    step { s with inbox := ⟨r, commandWord 0#1 n, p⟩ :: rest } = step { s with inbox := ⟨r, 0#65, p⟩ :: rest }

/-! ### Data formats (30_encoding.md, 20_memory.md) -/

/-- R70: BE32 and its inverse, both ways, and the word WLD makes of the block's bytes 4i..4i+3. -/
def Obligations.Be32IsBigEndian : Prop :=
  (∀ b0 b1 b2 b3 : Byte,
    (be32 b0 b1 b2 b3).toNat = b0.toNat * 2 ^ 24 + b1.toNat * 2 ^ 16 + b2.toNat * 2 ^ 8 + b3.toNat ∧
    beByte (be32 b0 b1 b2 b3) 0 = b0 ∧ beByte (be32 b0 b1 b2 b3) 1 = b1 ∧
    beByte (be32 b0 b1 b2 b3) 2 = b2 ∧ beByte (be32 b0 b1 b2 b3) 3 = b3) ∧
  (∀ x : Word, be32 (beByte x 0) (beByte x 1) (beByte x 2) (beByte x 3) = x) ∧
  (∀ (x : Word) (k : Fin 4), (beByte x k).toNat = x.toNat / 2 ^ (8 * (3 - k.val)) % 256) ∧
  (∀ (s : State) (i : Index), i.toNat ≤ 15 → ∃ t, exec (.wld i) s = .next t ∧
    t.readW i = be32 (s.padByte (64 * s.bidx.toNat + 4 * i.toNat)) (s.padByte (64 * s.bidx.toNat + 4 * i.toNat + 1))
      (s.padByte (64 * s.bidx.toNat + 4 * i.toNat + 2)) (s.padByte (64 * s.bidx.toNat + 4 * i.toNat + 3)))

/-- R71: the last eight bytes of the padded message are the bit length, most significant byte first, and on the last block
WLD 14 and WLD 15 load its bits 63..32 and 31..0. -/
def Obligations.LengthFieldFillsTheLastTwoWords : Prop :=
  ∀ s : State, s.mlen.toNat < 2 ^ 61 →
    (∀ k, k < 8 → s.padByte (plen s.mlen.toNat - 8 + k) =
      BitVec.ofNat 8 (8 * s.mlen.toNat / 2 ^ (8 * (7 - k)) % 256)) ∧
    (s.bidx.toNat + 1 = nblk s.mlen.toNat →
    (∃ t, exec (.wld 14) s = .next t ∧ (t.readW 14).toNat = 8 * s.mlen.toNat / 2 ^ 32) ∧
    (∃ t, exec (.wld 15) s = .next t ∧ (t.readW 15).toNat = 8 * s.mlen.toNat % 2 ^ 32))

/-! ### The ALU (40_alu.md) -/

/-- R101: addition modulo 2^32, commutative, associative, with identity 0. -/
def Obligations.AdditionIsModulo : Prop :=
  ∀ x y z : Word,
    (add32 x y).toNat = (x.toNat + y.toNat) % 2 ^ 32 ∧ add32 x y = add32 y x ∧
    add32 (add32 x y) z = add32 x (add32 y z) ∧ add32 x 0 = x

/-- R102: rotation by a wired amount, by its sum and by its bits. -/
def Obligations.RotationIsCircular : Prop :=
  ∀ (x : Word) (n : Nat), 1 ≤ n → n ≤ 31 →
    (rotr x n).toNat = (x.toNat / 2 ^ n + x.toNat * 2 ^ (32 - n)) % 2 ^ 32 ∧
    ∀ i, i < 32 → (rotr x n).getLsbD i = x.getLsbD ((i + n) % 32)

/-- R103: the logical shift divides, and its n most significant result bits are 0. -/
def Obligations.ShiftIsDivision : Prop :=
  ∀ (x : Word) (n : Nat), 1 ≤ n → n ≤ 31 →
    (shr x n).toNat = x.toNat / 2 ^ n ∧ ∀ i, 32 - n ≤ i → (shr x n).getLsbD i = false

/-- R107, R108, R109, R111: the four sigma functions, bit by bit, with their corner cases and examples. -/
def Obligations.SigmaFunctionsBitByBit : Prop :=
  (∀ (x : Word) (i : Nat), i < 32 →
    (ssig0 x).getLsbD i = (x.getLsbD ((i + 7) % 32) ^^ x.getLsbD ((i + 18) % 32) ^^ x.getLsbD (i + 3)) ∧
    (ssig1 x).getLsbD i = (x.getLsbD ((i + 17) % 32) ^^ x.getLsbD ((i + 19) % 32) ^^ x.getLsbD (i + 10)) ∧
    (bsig1 x).getLsbD i = (x.getLsbD ((i + 6) % 32) ^^ x.getLsbD ((i + 11) % 32) ^^ x.getLsbD ((i + 25) % 32)) ∧
    (bsig0 x).getLsbD i = (x.getLsbD ((i + 2) % 32) ^^ x.getLsbD ((i + 13) % 32) ^^ x.getLsbD ((i + 22) % 32))) ∧
  (ssig0 0 = 0 ∧ ssig0 0xffffffff = 0x1fffffff ∧ ssig0 1 = 0x02004000 ∧ ssig0 0x80000000 = 0x11002000 ∧
    ssig0 0x61626380 = 0x940e90ef) ∧
  (ssig1 0 = 0 ∧ ssig1 0xffffffff = 0x003fffff ∧ ssig1 1 = 0x0000a000 ∧ ssig1 0x80000000 = 0x00205000 ∧
    ssig1 0x18 = 0x000f0000) ∧
  (bsig1 0 = 0 ∧ bsig1 0xffffffff = 0xffffffff ∧ bsig1 1 = 0x04200080 ∧ bsig1 0x80000000 = 0x02100040 ∧
    bsig1 0x510e527f = 0x3587272b) ∧
  (bsig0 0 = 0 ∧ bsig0 0xffffffff = 0xffffffff ∧ bsig0 1 = 0x40080400 ∧ bsig0 0x80000000 = 0x20040200 ∧
    bsig0 0x6a09e667 = 0xce20b47e)

/-- R110, R112, R116: the definitions of Ch and Maj, their truth tables on each bit, and their forms with + and OR. -/
def Obligations.ChoiceAndMajorityTables : Prop :=
  ∀ x y z : Word,
    (∀ i, i < 32 →
      (ch x y z).getLsbD i = (if x.getLsbD i = true then y.getLsbD i else z.getLsbD i) ∧
      (maj x y z).getLsbD i =
        decide (2 ≤ (x.getLsbD i).toNat + (y.getLsbD i).toNat + (z.getLsbD i).toNat)) ∧
    ch x y z = (x &&& y) ^^^ (~~~x &&& z) ∧ maj x y z = (x &&& y) ^^^ (x &&& z) ^^^ (y &&& z) ∧
    ch x y z = (x &&& y) + (~~~x &&& z) ∧ ch x y z = (x &&& y) ||| (~~~x &&& z) ∧
    maj x y z = (x &&& y) ||| (x &&& z) ||| (y &&& z)

/-- R20, R21: the tables hold the first 32 bits of the fractional parts of the cube roots of the first 64 primes and of
the square roots of the first 8 (each entry with the root's integer part `c` in front is the integer root). -/
def Obligations.ConstantsAreRootFractions : Prop :=
  firstPrimes.length = 64 ∧
  (∀ i : Index, ∃ c : Nat, c < 7 ∧
    (c * 2 ^ 32 + (romK i).toNat) ^ 3 ≤ firstPrimes.getD i.toNat 0 * 2 ^ 96 ∧
    firstPrimes.getD i.toNat 0 * 2 ^ 96 < (c * 2 ^ 32 + (romK i).toNat + 1) ^ 3) ∧
  (∀ j : Fin 8, ∃ c : Nat, c < 5 ∧
    (c * 2 ^ 32 + (romIV[j]).toNat) ^ 2 ≤ firstPrimes.getD j.val 0 * 2 ^ 64 ∧
    firstPrimes.getD j.val 0 * 2 ^ 64 < (c * 2 ^ 32 + (romIV[j]).toNat + 1) ^ 2)

/-! ### The padder (41_padding.md) -/

/-- R131, R132: the zero fill is the least that reaches 56 modulo 64, the padded length is a multiple of 64 and has the
closed form. -/
def Obligations.PaddedLengthClosedForm : Prop :=
  ∀ n : Nat,
    zeroFill n < 64 ∧ (n % 64 ≤ 55 → zeroFill n = 55 - n % 64) ∧ (56 ≤ n % 64 → zeroFill n = 119 - n % 64) ∧
    (n + 1 + zeroFill n) % 64 = 56 ∧ (∀ z, (n + 1 + z) % 64 = 56 → zeroFill n ≤ z) ∧
    plen n = n + 1 + zeroFill n + 8 ∧ plen n % 64 = 0 ∧ nblk n = plen n / 64 ∧ nblk n = (n + 8) / 64 + 1

/-- R133: the four cases of PadByte, which cover 0..PLEN-1. -/
def Obligations.PadByteCases : Prop :=
  ∀ (s : State) (j : Nat), s.mlen.toNat < 2 ^ 61 → j < 64 * ((s.mlen.toNat + 8) / 64 + 1) →
    s.padByte j =
      if j < s.mlen.toNat then Memory.read s.msg j
      else if j = s.mlen.toNat then 0x80#8
      else if j < 64 * ((s.mlen.toNat + 8) / 64 + 1) - 8 then 0x00#8
      else BitVec.ofNat 8
        (8 * s.mlen.toNat / 2 ^ (8 * (7 - (j - (64 * ((s.mlen.toNat + 8) / 64 + 1) - 8)))) % 256)

/-- R138: index by index, PadByte gives the byte string of the source's procedure. -/
def Obligations.PadByteIsTheProcedure : Prop :=
  ∀ s : State, s.mlen.toNat < 2 ^ 61 →
    (List.range (plen s.mlen.toNat)).map s.padByte = paddedMessage (messageIn s.msg s.mlen.toNat)

/-- R135: the padded length in bits is a positive multiple of 512 within its bounds, the last eight bytes encode the bit
length, 0x80 stands at index n, and padding is injective. -/
def Obligations.PaddingProperties : Prop :=
  (∀ m : List Byte, m.length < 2 ^ 61 →
    8 * (paddedMessage m).length % 512 = 0 ∧ 0 < 8 * (paddedMessage m).length ∧
    8 * m.length + 65 ≤ 8 * (paddedMessage m).length ∧
    8 * m.length + 72 ≤ 8 * (paddedMessage m).length ∧ 8 * (paddedMessage m).length ≤ 8 * m.length + 576 ∧
    (paddedMessage m)[m.length]? = some 0x80#8 ∧
    (∀ k, k < 8 → (paddedMessage m)[(paddedMessage m).length - 8 + k]? =
      some (BitVec.ofNat 8 (8 * m.length / 2 ^ (8 * (7 - k)))))) ∧
  (∀ m m' : List Byte, m.length < 2 ^ 61 → m'.length < 2 ^ 61 → paddedMessage m = paddedMessage m' → m = m')

/-! ### The message space (20_memory.md) -/

/-- R40, R42: a byte the host has placed is the byte read, and no other index is touched. -/
def Obligations.PlacedByteIsRead : Prop :=
  ∀ (m : List Host.Cell) (j k : Nat) (b : Byte), Memory.wf m = true →
    Memory.read (Memory.write m j b) k = if k = j then b else Memory.read m k

/-- The canonical form is canonical: two message spaces that read alike at every index are equal (the model's, log 9). -/
def Obligations.EqualReadsEqualMemories : Prop :=
  ∀ m m' : List Host.Cell, Memory.wf m = true → Memory.wf m' = true →
    (∀ j, Memory.read m j = Memory.read m' j) → m = m'

/-! ### The operations: what each does -/

/-- R180 with R202: START in IDLE or FINALIZED, and its command word. -/
def Obligations.StartBeginsOrFaults : Prop :=
  (∀ n : Length, ∃ w, encode (.start n) = .command w ∧ w.toNat = 2 ^ 64 + n.toNat) ∧
  ∀ (n : Length) (s : State), s.st = .idle ∨ s.st = .finalized →
    exec (.start n) s =
      if 2 ^ 61 ≤ n.toNat then
        .next { s with st := .faulted, fcause := .inputTooLarge, mlen := n }
      else
        .next { s with
          h := #v[0x6a09e667, 0xbb67ae85, 0x3c6ef372, 0xa54ff53a, 0x510e527f, 0x9b05688c, 0x1f83d9ab, 0x5be0cd19]
          mlen := n, bidx := 0#56, upc := 0x000#9, st := .accumulating }

/-- R200, R202: an accepted START with n >= 2^61 takes InputTooLarge, cause 1, and changes three registers only. -/
def Obligations.TooLargeEntersFault : Prop :=
  ∀ (n : Length) (s : State), s.st = .idle ∨ s.st = .finalized → 2 ^ 61 ≤ n.toNat →
    ∃ t, exec (.start n) s = .next t ∧ t.statusPort = 3#2 ∧ t.causePort = 1#2 ∧ t.mlen = n ∧
      t.h = s.h ∧ t.v = s.v ∧ t.w = s.w ∧ t.bidx = s.bidx ∧ t.upc = s.upc ∧ t.msg = s.msg

/-- R181: a START presented in ACCUMULATING or FAULTED changes nothing. That the step at which it is presented changes
nothing either, so that in ACCUMULATING the engine does not move at that boundary, is the model's choice: an ignored command
uses a boundary, read from the order of R206 (log 6, DESIGN CHOICE). -/
def Obligations.StartIgnoredWhileBusyOrFaulted : Prop :=
  (∀ (n : Length) (s : State), s.st = .accumulating ∨ s.st = .faulted → exec (.start n) s = .next s) ∧
  (∀ (n : Length) (s : State) (rest : List HostInput), s.st = .accumulating ∨ s.st = .faulted →
    s.inbox = ⟨false, commandWord 1#1 n, []⟩ :: rest → step s = .next { s with inbox := rest })

/-- R150: WLD loads the big-endian word of the four padded bytes and goes to its successor; inside the padded message the
indices it reads are those of its four bytes below MLEN, ascending. -/
def Obligations.WldLoadsItsWord : Prop :=
  ∀ (i : Index) (s : State), i.toNat ≤ 15 →
    encode (.wld i) = .control (BitVec.ofNat 9 i.toNat) ∧
    exec (.wld i) s = .next { s with
      w := s.w.set i.toNat (BitVec.ofNat 32
        ((s.padByte (64 * s.bidx.toNat + 4 * i.toNat)).toNat * 2 ^ 24 +
          (s.padByte (64 * s.bidx.toNat + 4 * i.toNat + 1)).toNat * 2 ^ 16 +
          (s.padByte (64 * s.bidx.toNat + 4 * i.toNat + 2)).toNat * 2 ^ 8 +
          (s.padByte (64 * s.bidx.toNat + 4 * i.toNat + 3)).toNat))
      upc := if i.toNat < 15 then BitVec.ofNat 9 (0x000 + i.toNat + 1) else 0x050#9 } ∧
    (s.mlen.toNat < 2 ^ 61 → s.bidx.toNat < nblk s.mlen.toNat →
      s.wordReads i = (List.range' (64 * s.bidx.toNat + 4 * i.toNat) 4).filter fun j => j < s.mlen.toNat)

/-- R151: WEX writes the four-term sum modulo 2^32 and goes to its successor. -/
def Obligations.WexExpandsItsWord : Prop :=
  ∀ (i : Index) (s : State) (_ : 16 ≤ i.toNat),
    encode (.wex i) = .control (BitVec.ofNat 9 (0x040 + i.toNat)) ∧
    exec (.wex i) s = .next { s with
      w := s.w.set i.toNat (BitVec.ofNat 32
        (s.w[i.toNat - 16].toNat + (ssig0 s.w[i.toNat - 15]).toNat + s.w[i.toNat - 7].toNat +
          (ssig1 s.w[i.toNat - 2]).toNat))
      upc := if i.toNat < 63 then BitVec.ofNat 9 (0x040 + i.toNat + 1) else 0x080#9 }

/-- R161: VINIT copies the hash state into the working variables and goes to RND 0. -/
def Obligations.VinitCopiesTheHashState : Prop :=
  encode .vinit = .control 0x080#9 ∧
  ∀ s : State, exec .vinit s = .next { s with v := s.h, upc := 0x0C0#9 }

/-- R162: one round, from the values before it. -/
def Obligations.RndRunsOneRound : Prop :=
  ∀ (i : Index) (s : State) (a b c d e f g h t1 t2 : Word),
    s.v = #v[a, b, c, d, e, f, g, h] →
    t1 = h + bsig1 e + ch e f g + romK i + s.w[i.toNat] → t2 = bsig0 a + maj a b c →
    encode (.rnd i) = .control (BitVec.ofNat 9 (0x0C0 + i.toNat)) ∧
    exec (.rnd i) s = .next { s with
      v := #v[t1 + t2, a, b, c, d + t1, e, f, g]
      upc := if i.toNat < 63 then BitVec.ofNat 9 (0x0C0 + i.toNat + 1) else 0x100#9 }

/-- R164: ACC adds the working variables into the hash state, counts the block, and finalises after the last, `UPC` keeping
its value; `V`, `W` and `MLEN` are kept. It completes in every state; that the count fits its 56 bits (R16: always) is the
premise of that one clause. -/
def Obligations.AccAccumulates : Prop :=
  encode .acc = .control 0x100#9 ∧
  ∀ s : State, ∃ t, exec .acc s = .next t ∧
    (∀ j : Fin 8, t.h[j].toNat = (s.h[j].toNat + s.v[j].toNat) % 2 ^ 32) ∧
    (s.bidx.toNat + 1 < 2 ^ 56 → t.bidx.toNat = s.bidx.toNat + 1) ∧
    (s.bidx.toNat + 1 = (s.mlen.toNat + 8) / 64 + 1 → t.st = .finalized ∧ t.upc = s.upc) ∧
    (s.bidx.toNat + 1 ≠ (s.mlen.toNat + 8) / 64 + 1 → t.st = s.st ∧ t.upc = 0x000#9) ∧
    t.v = s.v ∧ t.w = s.w ∧ t.mlen = s.mlen

/-- R77 has the decoder refuse the word of an index outside the operation's range. That the operation's own meaning, given
such an index, refuses by the name reservedControlWord is the model's reading (log 13, DEDUCED). -/
def Obligations.IndexOutsideRangeIsRefused : Prop :=
  (∀ (i : Index) (s : State), 16 ≤ i.toNat →
    exec (.wld i) s = .refused (.reservedControlWord (BitVec.ofNat 9 i.toNat))) ∧
  (∀ (i : Index) (s : State), i.toNat ≤ 15 →
    exec (.wex i) s = .refused (.reservedControlWord (BitVec.ofNat 9 (0x040 + i.toNat))))

/-! ### The operations: what each leaves unchanged -/

/-- R180, R181, R202, R231: START never writes `V`, `W` or `MSG`; `FCAUSE` changes only with the fault, `H`, `BIDX` and `UPC`
only when a run begins. -/
def Obligations.StartFrame : Prop :=
  ∀ (n : Length) (s t : State), exec (.start n) s = .next t →
    t.v = s.v ∧ t.w = s.w ∧ t.inbox = s.inbox ∧ t.draws = s.draws ∧
    (∀ j, t.readMsg j = s.readMsg j) ∧
    (t.st ≠ .faulted → t.fcause = s.fcause) ∧
    (¬((s.st = .idle ∨ s.st = .finalized) ∧ n.toNat < 2 ^ 61) → t.h = s.h ∧ t.bidx = s.bidx ∧ t.upc = s.upc) ∧
    (¬(s.st = .idle ∨ s.st = .finalized) → t.mlen = s.mlen ∧ t.st = s.st ∧ t.fcause = s.fcause)

/-- R150, R151: WLD and WEX write `W[i]` and `UPC` and nothing else. -/
def Obligations.ScheduleFrame : Prop :=
  ∀ (i : Index) (s t : State), exec (.wld i) s = .next t ∨ exec (.wex i) s = .next t →
    (∀ k : Index, k ≠ i → t.readW k = s.readW k) ∧
    t.h = s.h ∧ t.v = s.v ∧ t.mlen = s.mlen ∧ t.bidx = s.bidx ∧ t.st = s.st ∧ t.fcause = s.fcause ∧
    t.inbox = s.inbox ∧ t.draws = s.draws ∧ ∀ j, t.readMsg j = s.readMsg j

/-- R161, R162: VINIT and RND write `V` and `UPC` and nothing else. -/
def Obligations.RoundFrame : Prop :=
  ∀ (i : Index) (s t : State), exec .vinit s = .next t ∨ exec (.rnd i) s = .next t →
    t.h = s.h ∧ t.w = s.w ∧ t.mlen = s.mlen ∧ t.bidx = s.bidx ∧ t.st = s.st ∧ t.fcause = s.fcause ∧
    t.inbox = s.inbox ∧ t.draws = s.draws ∧ ∀ j, t.readMsg j = s.readMsg j

/-- R164: ACC writes `H`, `BIDX` and `UPC` or `ST`, and nothing else; only on the last block does it write `ST`, and then not
`UPC`. -/
def Obligations.AccFrame : Prop :=
  ∀ s t : State, exec .acc s = .next t →
    t.v = s.v ∧ t.w = s.w ∧ t.mlen = s.mlen ∧ t.fcause = s.fcause ∧ t.inbox = s.inbox ∧ t.draws = s.draws ∧
    (t.st = s.st ∨ (t.st = .finalized ∧ t.upc = s.upc)) ∧ ∀ j, t.readMsg j = s.readMsg j

/-- R41: no operation writes the message space. That a step leaves it with exactly the host's bytes of its own boundary
added, in every status, is the model's choice (log 6 and log 8, DESIGN CHOICE). -/
def Obligations.EngineWritesNoMemory : Prop :=
  (∀ (i : Instr) (s t : State), exec i s = .next t → t.msg = s.msg) ∧
  (∀ s t : State, step s = .next t → t.msg = Memory.writeAll s.msg (s.inbox.headD quiet).poke)

/-! ### The step -/

/-- R183, R206: in ACCUMULATING, with no reset and no command at the boundary, the step is exec of the operation at `UPC`.
The state it runs on is the model's choice: the boundary's input is used up (log 6, DESIGN CHOICE) and the host's bytes of
that boundary have landed, so that a WLD reads them at once (log 8, DESIGN CHOICE, which is unsafe for such a claim). -/
def Obligations.StepRunsTheDecodedOperation : Prop :=
  ∀ (s : State) (i : Instr), s.st = .accumulating → (s.inbox.headD quiet).reset = false →
    goOf (s.inbox.headD quiet).cmd = false → decodeControl s.upc = .ok i →
    step s = exec i { s with
      inbox := s.inbox.tail, msg := Memory.writeAll s.msg (s.inbox.headD quiet).poke }

/-- R206: with no reset at the boundary a presented command is what runs, in every status. That it runs on the state with
the boundary's input used up and the host's bytes landed, and that an ignored one uses the boundary, is the model's choice
(log 6 and log 8, DESIGN CHOICE). -/
def Obligations.StepRunsThePresentedCommand : Prop :=
  ∀ s : State, (s.inbox.headD quiet).reset = false → goOf (s.inbox.headD quiet).cmd = true →
    step s = exec (.start (lengthOf (s.inbox.headD quiet).cmd)) { s with
      inbox := s.inbox.tail, msg := Memory.writeAll s.msg (s.inbox.headD quiet).poke }

/-- R230, R231, R206: reset wins over a command and over the engine, gives IDLE and no fault, and does not touch `MSG`.
That the host's bytes of that boundary land, and its input is used up, is the model's choice (log 6 and log 8, DESIGN
CHOICE). -/
def Obligations.ResetWinsAndClears : Prop :=
  ∀ s : State, (s.inbox.headD quiet).reset = true →
    ∃ t, step s = .next t ∧ t.st = .idle ∧ t.fcause = .none ∧ t.inbox = s.inbox.tail ∧
      t.msg = Memory.writeAll s.msg (s.inbox.headD quiet).poke

/-- R183: outside ACCUMULATING, with no reset and no command, the engine has no step and no register changes (log 15,
DEDUCED); with nothing outside either, nothing at all changes. That the boundary's input is used up and its bytes land is
the model's choice (log 6 and log 8, DESIGN CHOICE). -/
def Obligations.NoEngineStepUnlessAccumulating : Prop :=
  ∀ s : State, s.st ≠ .accumulating → (s.inbox.headD quiet).reset = false →
    goOf (s.inbox.headD quiet).cmd = false →
    step s = .next { s with
      inbox := s.inbox.tail, msg := Memory.writeAll s.msg (s.inbox.headD quiet).poke } ∧
    (s.inbox = [] → step s = .next s)

/-- R206, U7: a START at the boundary of the final ACC is ignored; one boundary later, with the ACC taken first, the same
START is accepted. That both orders are runs of the machine, and that the ignored START uses a boundary, is the model's
reading (log 7, DEDUCED; log 6, DESIGN CHOICE). -/
def Obligations.StartRacesTheFinalAcc : Prop :=
  ∀ (s : State) (n : Length), s.st = .accumulating → s.upc = 0x100#9 →
    s.bidx.toNat + 1 = nblk s.mlen.toNat → n.toNat < 2 ^ 61 →
    (∃ t, Host.Core.run core 2 { s with inbox := [⟨false, commandWord 1#1 n, []⟩] } = .next t ∧
      t.st = .finalized ∧ t.mlen = s.mlen) ∧
    (∃ t, Host.Core.run core 2 { s with inbox := [quiet, ⟨false, commandWord 1#1 n, []⟩] } = .next t ∧
      t.st = .accumulating ∧ t.mlen = n ∧ t.h = romIV)

/-! ### The whole machine -/

/-- R27, R20, R21: the values the spec gives for reset, and that the ports show them. -/
def Obligations.ResetValues : Prop :=
  State.reset.st = .idle ∧ State.reset.fcause = .none ∧ State.reset.statusPort = 0#2 ∧ State.reset.causePort = 0#2 ∧
  State.reset.busy = false ∧ State.reset.done = false ∧ step State.reset = .next State.reset

/-- The invariant holds at reset. -/
def Obligations.InvariantAtReset : Prop := Inv State.reset

/-- R15, R16, R17, R19, R164, R202 as one invariant: every step keeps it, whatever the host and the reset input do. -/
def Obligations.StepKeepsTheInvariant : Prop :=
  ∀ s t : State, Inv s → step s = .next t → Inv t

/-- R189, R195, R204: nothing stops the machine: from a state that meets the invariant every step answers a next state. -/
def Obligations.NothingStopsTheMachine : Prop :=
  ∀ s : State, Inv s → ∃ t, step s = .next t

/-- R182: the status after a step, for every status and every event. That at a boundary with an ignored START the engine
does not move as well, so that a final ACC waits, is the model's choice by the order of R206 (log 6, DESIGN CHOICE). -/
def Obligations.StatusTransitions : Prop :=
  ∀ s t : State, step s = .next t →
    t.st =
      if (s.inbox.headD quiet).reset = true then .idle
      else if goOf (s.inbox.headD quiet).cmd = true then
        if s.st = .idle ∨ s.st = .finalized then
          if (lengthOf (s.inbox.headD quiet).cmd).toNat < 2 ^ 61 then .accumulating else .faulted
        else s.st
      else if s.st = .accumulating ∧ s.upc = 0x100#9 ∧ s.bidx.toNat + 1 = nblk s.mlen.toNat then .finalized
      else s.st

/-- R203: only reset leaves FAULTED; until then no step changes a register, and reset clears `FCAUSE`. That the boundary's
input is used up and the host's bytes land is the model's choice (log 6 and log 8, DESIGN CHOICE). -/
def Obligations.FaultIsStickyUntilReset : Prop :=
  ∀ s : State, s.st = .faulted →
    ((s.inbox.headD quiet).reset = false → step s = .next { s with
      inbox := s.inbox.tail, msg := Memory.writeAll s.msg (s.inbox.headD quiet).poke }) ∧
    ((s.inbox.headD quiet).reset = true → ∃ t, step s = .next t ∧ t.st = .idle ∧ t.fcause = .none)

/-- R11: apart from reset, only an accepted START and ACC ever change `H`. That no command stood at the boundary of such an
ACC, since the engine does not move at a boundary whose command is ignored, is the model's choice by the order of R206
(log 6, DESIGN CHOICE). -/
def Obligations.OnlyStartAndAccChangeTheHash : Prop :=
  ∀ s t : State, step s = .next t → (s.inbox.headD quiet).reset = false → t.h ≠ s.h →
    ((s.st = .idle ∨ s.st = .finalized) ∧ goOf (s.inbox.headD quiet).cmd = true ∧ t.h = romIV ∧
      t.st = .accumulating) ∨
    (s.st = .accumulating ∧ goOf (s.inbox.headD quiet).cmd = false ∧ s.upc = 0x100#9 ∧
      ∀ j : Fin 8, t.h[j] = s.h[j] + s.v[j])

/-- R184: the successor of every position, as numbers, in an undisturbed step. What ACC does in the states R184 says cannot
occur, with BIDX + 1 > NBLK, a length the padder does not take or a BIDX that wraps, is the model's choice, the else branch
of R164 and the 56-bit sum (log 12, DESIGN CHOICE). -/
def Obligations.SuccessorTable : Prop :=
  ∀ s : State, s.st = .accumulating → s.inbox = [] → legalWord s.upc = true →
    ∃ t, step s = .next t ∧
      t.upc.toNat =
        (if s.upc.toNat < 0x00F then s.upc.toNat + 1
        else if s.upc.toNat = 0x00F then 0x050
        else if s.upc.toNat < 0x07F then s.upc.toNat + 1
        else if s.upc.toNat = 0x07F then 0x080
        else if s.upc.toNat = 0x080 then 0x0C0
        else if s.upc.toNat < 0x0FF then s.upc.toNat + 1
        else if s.upc.toNat = 0x0FF then 0x100
        else if s.bidx.toNat + 1 = nblk s.mlen.toNat then 0x100 else 0x000) ∧
      (s.upc.toNat < 0x100 → t.bidx = s.bidx ∧ t.st = .accumulating) ∧
      (s.upc.toNat = 0x100 → t.bidx = s.bidx + 1 ∧
        (t.st = .finalized ↔ s.bidx.toNat + 1 = nblk s.mlen.toNat))

/-- R186: what is executed, which indices are read, and UPC, BIDX and ST do not depend on any data: two states that agree on
the control registers, the boundary inputs and the model's counter agree on all of these for any number of steps. Where
the inputs hold a reset, that UPC and BIDX agree after it is the model's choice, by which the values a reset event draws
depend on the counter alone (log 4, DESIGN CHOICE): R27 leaves them unspecified and promises no equality. -/
def Obligations.ControlIgnoresData : Prop :=
  ∀ (k : Nat) (s s' : State), s.upc = s'.upc → s.bidx = s'.bidx → s.st = s'.st → s.mlen = s'.mlen →
    s.inbox = s'.inbox → s.draws = s'.draws →
    opsRun k s = opsRun k s' ∧ readsRun k s = readsRun k s' ∧
    (State.after^[k] s).upc = (State.after^[k] s').upc ∧ (State.after^[k] s).bidx = (State.after^[k] s').bidx ∧
    (State.after^[k] s).st = (State.after^[k] s').st

/-- R186, for runs without a reset: what is executed, which indices are read, and UPC, BIDX and ST do not depend on any
data: not on H, V, W or MSG, nor on the bytes the host places meanwhile. The two states' `draws` may differ, so nothing here
rests on a free value. -/
def Obligations.ControlIgnoresDataWithoutReset : Prop :=
  ∀ (k : Nat) (s s' : State), s.upc = s'.upc → s.bidx = s'.bidx → s.st = s'.st → s.mlen = s'.mlen →
    s.inbox.map HostInput.cmd = s'.inbox.map HostInput.cmd →
    (∀ x ∈ s.inbox, x.reset = false) → (∀ x ∈ s'.inbox, x.reset = false) →
    opsRun k s = opsRun k s' ∧ readsRun k s = readsRun k s' ∧
    (State.after^[k] s).upc = (State.after^[k] s').upc ∧ (State.after^[k] s).bidx = (State.after^[k] s').bidx ∧
    (State.after^[k] s).st = (State.after^[k] s').st

/-- R185: from an accepted START the engine runs BLOCK exactly NBLK times, in order, every step enabled, with BIDX the
number of blocks done, and stops in FINALIZED. -/
def Obligations.RunExecutesTheBlocksInOrder : Prop :=
  ∀ s : State, Started s →
    opsRun (130 * nblk s.mlen.toNat) s = (List.replicate (nblk s.mlen.toNat) blockOps).flatten ∧
    (∀ k, k < 130 * nblk s.mlen.toNat →
      ∃ t, Host.Core.run core k s = .next t ∧ t.st = .accumulating ∧ t.bidx.toNat = k / 130) ∧
    ∃ t, Host.Core.run core (130 * nblk s.mlen.toNat) s = .next t ∧ t.st = .finalized ∧
      t.bidx.toNat = nblk s.mlen.toNat

/-- R50: over a whole run every message byte is read exactly once, in ascending order, and no other index is read. -/
def Obligations.EachMessageByteReadOnceInOrder : Prop :=
  ∀ s : State, Started s → readsRun (130 * nblk s.mlen.toNat) s = List.range s.mlen.toNat

/-- R166: the effect of one undisturbed block on the hash state is the block function of the padded message's block. -/
def Obligations.BlockComputesTheCompression : Prop :=
  ∀ s : State, s.st = .accumulating → s.upc = 0x000#9 → s.inbox = [] → s.mlen.toNat < 2 ^ 61 →
    s.bidx.toNat < nblk s.mlen.toNat →
    ∃ t, Host.Core.run core 130 s = .next t ∧
      t.h = compBlock s.h (blockBytes (paddedMessage (messageIn s.msg s.mlen.toNat)) s.bidx.toNat)

/-- R188, R190: START n over a message, left alone, reaches FINALIZED after 130 engine steps a block and then shows, at every
read, the digest of exactly the n bytes that stood in `MSG` when START was presented. That bytes placed at START's own
boundary are among those is the model's choice (log 8, DESIGN CHOICE). -/
def Obligations.DigestOfTheMessage : Prop :=
  ∀ (s : State) (n : Length) (p : List (MsgIndex × Byte)), s.st = .idle ∨ s.st = .finalized → n.toNat < 2 ^ 61 →
    s.inbox = [⟨false, commandWord 1#1 n, p⟩] →
    ∃ t, Host.Core.run core (1 + 130 * nblk n.toNat) s = .next t ∧ t.st = .finalized ∧
      ∀ r, t.digestPort r = digestOf (messageIn (Memory.writeAll s.msg p) n.toNat)

/-- R188, with R52 (1): bytes the host places in `MSG` at one boundary, before it presents START n at the next, are the bytes
hashed: the run reaches FINALIZED and then shows, at every read, their digest. -/
def Obligations.DigestOfTheBytesPlacedBefore : Prop :=
  ∀ (s : State) (n : Length) (p : List (MsgIndex × Byte)), s.st = .idle ∨ s.st = .finalized → n.toNat < 2 ^ 61 →
    s.inbox = [⟨false, 0#65, p⟩, ⟨false, commandWord 1#1 n, []⟩] →
    ∃ t, Host.Core.run core (2 + 130 * nblk n.toNat) s = .next t ∧ t.st = .finalized ∧
      t.h = hashAfter (paddedMessage (messageIn (Memory.writeAll s.msg p) n.toNat)) (nblk n.toNat) ∧
      ∀ r, t.digestPort r = digestOf (messageIn (Memory.writeAll s.msg p) n.toNat)

/-- R12, R189: the digest depends on n and the n bytes only, not on the registers, the status or the operations
before. -/
def Obligations.DigestIndependentOfThePast : Prop :=
  ∀ (s s' : State) (n : Length), s.st = .idle ∨ s.st = .finalized → s'.st = .idle ∨ s'.st = .finalized →
    n.toNat < 2 ^ 61 → s.inbox = [⟨false, commandWord 1#1 n, []⟩] → s'.inbox = [⟨false, commandWord 1#1 n, []⟩] →
    (∀ j, j < n.toNat → s.readMsg j = s'.readMsg j) →
    ∃ t t', Host.Core.run core (1 + 130 * nblk n.toNat) s = .next t ∧
      Host.Core.run core (1 + 130 * nblk n.toNat) s' = .next t' ∧
      t.st = .finalized ∧ t'.st = .finalized ∧
      ∀ r r', t.digestPort r = t'.digestPort r' ∧ (t.digestPort r).length = 32

/-! ### The ports (44_control.md) -/

/-- R190, R47, R73: in FINALIZED the port shows H, big-endian, as 32 bytes. -/
def Obligations.DigestPortShowsTheHash : Prop :=
  ∀ (s : State) (r : Nat), s.st = .finalized →
    (s.digestPort r).length = 32 ∧
    ∀ (j : Fin 8) (k : Fin 4), (s.digestPort r)[4 * j.val + k.val]? =
      some (BitVec.ofNat 8 (s.h[j].toNat / 2 ^ (8 * (3 - k.val)) % 256))

/-- R25: outside FINALIZED the ports show nothing of H, V, W, MLEN, BIDX, UPC or MSG: two states with the same status and
cause are alike at the status and cause ports and in the derived levels, and the digest port gives 32 bytes (R191). That the
bytes DIGEST shows at one read number are equal in both states is the model's choice, by which the free bytes depend on the
read number and the index alone (log 5, DESIGN CHOICE): R191 allows any 32 bytes and promises no equality. -/
def Obligations.NothingElseIsVisible : Prop :=
  ∀ s s' : State, s.st = s'.st → s.fcause = s'.fcause → s.st ≠ .finalized →
    (∀ r, s.digestPort r = s'.digestPort r ∧ (s.digestPort r).length = 32) ∧
    (∀ c, s.hostReads c = s'.hostReads c) ∧ s.busy = s'.busy ∧ s.done = s'.done

/-- R187: in FINALIZED, with no reset and no command, a step leaves the digest valid and unchanged. -/
def Obligations.DigestStaysValid : Prop :=
  ∀ s : State, s.st = .finalized → (s.inbox.headD quiet).reset = false →
    goOf (s.inbox.headD quiet).cmd = false →
    ∃ t, step s = .next t ∧ t.st = .finalized ∧ ∀ r r', t.digestPort r = s.digestPort r'

/-- R18, R19, R192: the codes the status and cause ports show, and the derived levels. -/
def Obligations.PortCodes : Prop :=
  Status.idle.code = 0#2 ∧ Status.accumulating.code = 1#2 ∧ Status.finalized.code = 2#2 ∧ Status.faulted.code = 3#2 ∧
  Cause.none.code = 0#2 ∧ Cause.inputTooLarge.code = 1#2 ∧
  ∀ s : State, (s.busy = true ↔ s.statusPort = 1#2) ∧ (s.done = true ↔ s.statusPort = 2#2) ∧
    s.hostReads .st = some s.statusPort ∧ s.hostReads .fcause = some s.causePort ∧
    s.hostReads .mlen = none ∧ s.hostReads .bidx = none ∧ s.hostReads .upc = none
end

