-- ==== Sys2Proof/Laws/Encoding.lean ====
section
/-! SUPPORT. The fields of a command word read back (30_encoding.md R75). -/

namespace Sys2Proof

/-- The field `go` of a command word. -/
@[simp] theorem goOf_commandWord (go : BitVec 1) (n : Length) : goOf (commandWord go n) = go.getLsbD 0 := by
  simp [goOf, commandWord]

/-- The field `n` of a command word. -/
@[simp] theorem lengthOf_commandWord (go : BitVec 1) (n : Length) : lengthOf (commandWord go n) = n := by
  ext i hi
  simp [lengthOf, commandWord, hi, BitVec.getLsbD_eq_getElem]
  omega

/-- A command word is its two fields. -/
theorem commandWord_fields (w : CommandWord) : commandWord (BitVec.ofBool (goOf w)) (lengthOf w) = w := by
  ext i hi
  by_cases h : i < 64
  · simp [commandWord, goOf, lengthOf, h]
    exact BitVec.getLsbD_eq_getElem hi
  · obtain rfl : i = 64 := by omega
    simp [commandWord, goOf, lengthOf]

end Sys2Proof
end

