-- ==== Sys2Proof/Laws/State.lean ====
section
/-! SUPPORT. One lemma per field per register write, each true by unfolding, so that no later proof unfolds a record
update. -/

namespace Sys2Proof.Machine

@[simp] theorem State.writeH_h (s : State) (x : Vector Word 8) : (s.writeH x).h = x := rfl
@[simp] theorem State.writeH_v (s : State) (x : Vector Word 8) : (s.writeH x).v = s.v := rfl
@[simp] theorem State.writeH_w (s : State) (x : Vector Word 8) : (s.writeH x).w = s.w := rfl
@[simp] theorem State.writeH_mlen (s : State) (x : Vector Word 8) : (s.writeH x).mlen = s.mlen := rfl
@[simp] theorem State.writeH_bidx (s : State) (x : Vector Word 8) : (s.writeH x).bidx = s.bidx := rfl
@[simp] theorem State.writeH_upc (s : State) (x : Vector Word 8) : (s.writeH x).upc = s.upc := rfl
@[simp] theorem State.writeH_st (s : State) (x : Vector Word 8) : (s.writeH x).st = s.st := rfl
@[simp] theorem State.writeH_fcause (s : State) (x : Vector Word 8) : (s.writeH x).fcause = s.fcause := rfl
@[simp] theorem State.writeH_msg (s : State) (x : Vector Word 8) : (s.writeH x).msg = s.msg := rfl
@[simp] theorem State.writeH_inbox (s : State) (x : Vector Word 8) : (s.writeH x).inbox = s.inbox := rfl
@[simp] theorem State.writeH_draws (s : State) (x : Vector Word 8) : (s.writeH x).draws = s.draws := rfl

@[simp] theorem State.writeV_h (s : State) (x : Vector Word 8) : (s.writeV x).h = s.h := rfl
@[simp] theorem State.writeV_v (s : State) (x : Vector Word 8) : (s.writeV x).v = x := rfl
@[simp] theorem State.writeV_w (s : State) (x : Vector Word 8) : (s.writeV x).w = s.w := rfl
@[simp] theorem State.writeV_mlen (s : State) (x : Vector Word 8) : (s.writeV x).mlen = s.mlen := rfl
@[simp] theorem State.writeV_bidx (s : State) (x : Vector Word 8) : (s.writeV x).bidx = s.bidx := rfl
@[simp] theorem State.writeV_upc (s : State) (x : Vector Word 8) : (s.writeV x).upc = s.upc := rfl
@[simp] theorem State.writeV_st (s : State) (x : Vector Word 8) : (s.writeV x).st = s.st := rfl
@[simp] theorem State.writeV_fcause (s : State) (x : Vector Word 8) : (s.writeV x).fcause = s.fcause := rfl
@[simp] theorem State.writeV_msg (s : State) (x : Vector Word 8) : (s.writeV x).msg = s.msg := rfl
@[simp] theorem State.writeV_inbox (s : State) (x : Vector Word 8) : (s.writeV x).inbox = s.inbox := rfl
@[simp] theorem State.writeV_draws (s : State) (x : Vector Word 8) : (s.writeV x).draws = s.draws := rfl

@[simp] theorem State.writeW_h (s : State) (i : Index) (x : Word) : (s.writeW i x).h = s.h := rfl
@[simp] theorem State.writeW_v (s : State) (i : Index) (x : Word) : (s.writeW i x).v = s.v := rfl
@[simp] theorem State.writeW_w (s : State) (i : Index) (x : Word) : (s.writeW i x).w = s.w.set i.toNat x := rfl
@[simp] theorem State.writeW_mlen (s : State) (i : Index) (x : Word) : (s.writeW i x).mlen = s.mlen := rfl
@[simp] theorem State.writeW_bidx (s : State) (i : Index) (x : Word) : (s.writeW i x).bidx = s.bidx := rfl
@[simp] theorem State.writeW_upc (s : State) (i : Index) (x : Word) : (s.writeW i x).upc = s.upc := rfl
@[simp] theorem State.writeW_st (s : State) (i : Index) (x : Word) : (s.writeW i x).st = s.st := rfl
@[simp] theorem State.writeW_fcause (s : State) (i : Index) (x : Word) : (s.writeW i x).fcause = s.fcause := rfl
@[simp] theorem State.writeW_msg (s : State) (i : Index) (x : Word) : (s.writeW i x).msg = s.msg := rfl
@[simp] theorem State.writeW_inbox (s : State) (i : Index) (x : Word) : (s.writeW i x).inbox = s.inbox := rfl
@[simp] theorem State.writeW_draws (s : State) (i : Index) (x : Word) : (s.writeW i x).draws = s.draws := rfl

@[simp] theorem State.writeMlen_h (s : State) (x : Length) : (s.writeMlen x).h = s.h := rfl
@[simp] theorem State.writeMlen_v (s : State) (x : Length) : (s.writeMlen x).v = s.v := rfl
@[simp] theorem State.writeMlen_w (s : State) (x : Length) : (s.writeMlen x).w = s.w := rfl
@[simp] theorem State.writeMlen_mlen (s : State) (x : Length) : (s.writeMlen x).mlen = x := rfl
@[simp] theorem State.writeMlen_bidx (s : State) (x : Length) : (s.writeMlen x).bidx = s.bidx := rfl
@[simp] theorem State.writeMlen_upc (s : State) (x : Length) : (s.writeMlen x).upc = s.upc := rfl
@[simp] theorem State.writeMlen_st (s : State) (x : Length) : (s.writeMlen x).st = s.st := rfl
@[simp] theorem State.writeMlen_fcause (s : State) (x : Length) : (s.writeMlen x).fcause = s.fcause := rfl
@[simp] theorem State.writeMlen_msg (s : State) (x : Length) : (s.writeMlen x).msg = s.msg := rfl
@[simp] theorem State.writeMlen_inbox (s : State) (x : Length) : (s.writeMlen x).inbox = s.inbox := rfl
@[simp] theorem State.writeMlen_draws (s : State) (x : Length) : (s.writeMlen x).draws = s.draws := rfl

@[simp] theorem State.writeBidx_h (s : State) (x : BitVec 56) : (s.writeBidx x).h = s.h := rfl
@[simp] theorem State.writeBidx_v (s : State) (x : BitVec 56) : (s.writeBidx x).v = s.v := rfl
@[simp] theorem State.writeBidx_w (s : State) (x : BitVec 56) : (s.writeBidx x).w = s.w := rfl
@[simp] theorem State.writeBidx_mlen (s : State) (x : BitVec 56) : (s.writeBidx x).mlen = s.mlen := rfl
@[simp] theorem State.writeBidx_bidx (s : State) (x : BitVec 56) : (s.writeBidx x).bidx = x := rfl
@[simp] theorem State.writeBidx_upc (s : State) (x : BitVec 56) : (s.writeBidx x).upc = s.upc := rfl
@[simp] theorem State.writeBidx_st (s : State) (x : BitVec 56) : (s.writeBidx x).st = s.st := rfl
@[simp] theorem State.writeBidx_fcause (s : State) (x : BitVec 56) : (s.writeBidx x).fcause = s.fcause := rfl
@[simp] theorem State.writeBidx_msg (s : State) (x : BitVec 56) : (s.writeBidx x).msg = s.msg := rfl
@[simp] theorem State.writeBidx_inbox (s : State) (x : BitVec 56) : (s.writeBidx x).inbox = s.inbox := rfl
@[simp] theorem State.writeBidx_draws (s : State) (x : BitVec 56) : (s.writeBidx x).draws = s.draws := rfl

@[simp] theorem State.writeUpc_h (s : State) (x : ControlWord) : (s.writeUpc x).h = s.h := rfl
@[simp] theorem State.writeUpc_v (s : State) (x : ControlWord) : (s.writeUpc x).v = s.v := rfl
@[simp] theorem State.writeUpc_w (s : State) (x : ControlWord) : (s.writeUpc x).w = s.w := rfl
@[simp] theorem State.writeUpc_mlen (s : State) (x : ControlWord) : (s.writeUpc x).mlen = s.mlen := rfl
@[simp] theorem State.writeUpc_bidx (s : State) (x : ControlWord) : (s.writeUpc x).bidx = s.bidx := rfl
@[simp] theorem State.writeUpc_upc (s : State) (x : ControlWord) : (s.writeUpc x).upc = x := rfl
@[simp] theorem State.writeUpc_st (s : State) (x : ControlWord) : (s.writeUpc x).st = s.st := rfl
@[simp] theorem State.writeUpc_fcause (s : State) (x : ControlWord) : (s.writeUpc x).fcause = s.fcause := rfl
@[simp] theorem State.writeUpc_msg (s : State) (x : ControlWord) : (s.writeUpc x).msg = s.msg := rfl
@[simp] theorem State.writeUpc_inbox (s : State) (x : ControlWord) : (s.writeUpc x).inbox = s.inbox := rfl
@[simp] theorem State.writeUpc_draws (s : State) (x : ControlWord) : (s.writeUpc x).draws = s.draws := rfl

@[simp] theorem State.writeSt_h (s : State) (x : Status) : (s.writeSt x).h = s.h := rfl
@[simp] theorem State.writeSt_v (s : State) (x : Status) : (s.writeSt x).v = s.v := rfl
@[simp] theorem State.writeSt_w (s : State) (x : Status) : (s.writeSt x).w = s.w := rfl
@[simp] theorem State.writeSt_mlen (s : State) (x : Status) : (s.writeSt x).mlen = s.mlen := rfl
@[simp] theorem State.writeSt_bidx (s : State) (x : Status) : (s.writeSt x).bidx = s.bidx := rfl
@[simp] theorem State.writeSt_upc (s : State) (x : Status) : (s.writeSt x).upc = s.upc := rfl
@[simp] theorem State.writeSt_st (s : State) (x : Status) : (s.writeSt x).st = x := rfl
@[simp] theorem State.writeSt_fcause (s : State) (x : Status) : (s.writeSt x).fcause = s.fcause := rfl
@[simp] theorem State.writeSt_msg (s : State) (x : Status) : (s.writeSt x).msg = s.msg := rfl
@[simp] theorem State.writeSt_inbox (s : State) (x : Status) : (s.writeSt x).inbox = s.inbox := rfl
@[simp] theorem State.writeSt_draws (s : State) (x : Status) : (s.writeSt x).draws = s.draws := rfl

@[simp] theorem State.writeFcause_h (s : State) (x : Cause) : (s.writeFcause x).h = s.h := rfl
@[simp] theorem State.writeFcause_v (s : State) (x : Cause) : (s.writeFcause x).v = s.v := rfl
@[simp] theorem State.writeFcause_w (s : State) (x : Cause) : (s.writeFcause x).w = s.w := rfl
@[simp] theorem State.writeFcause_mlen (s : State) (x : Cause) : (s.writeFcause x).mlen = s.mlen := rfl
@[simp] theorem State.writeFcause_bidx (s : State) (x : Cause) : (s.writeFcause x).bidx = s.bidx := rfl
@[simp] theorem State.writeFcause_upc (s : State) (x : Cause) : (s.writeFcause x).upc = s.upc := rfl
@[simp] theorem State.writeFcause_st (s : State) (x : Cause) : (s.writeFcause x).st = s.st := rfl
@[simp] theorem State.writeFcause_fcause (s : State) (x : Cause) : (s.writeFcause x).fcause = x := rfl
@[simp] theorem State.writeFcause_msg (s : State) (x : Cause) : (s.writeFcause x).msg = s.msg := rfl
@[simp] theorem State.writeFcause_inbox (s : State) (x : Cause) : (s.writeFcause x).inbox = s.inbox := rfl
@[simp] theorem State.writeFcause_draws (s : State) (x : Cause) : (s.writeFcause x).draws = s.draws := rfl

end Sys2Proof.Machine
end

