-- ==== Sys2Proof/Laws/Ops.lean ====
section
/-! SUPPORT. What each shared operation does to each field, once: taking the fault, beginning a run, a reset event, and a
boundary. -/

namespace Sys2Proof.Machine

@[simp] theorem State.takeInputTooLarge_h (s : State) (n : Length) : (s.takeInputTooLarge n).h = s.h := rfl
@[simp] theorem State.takeInputTooLarge_v (s : State) (n : Length) : (s.takeInputTooLarge n).v = s.v := rfl
@[simp] theorem State.takeInputTooLarge_w (s : State) (n : Length) : (s.takeInputTooLarge n).w = s.w := rfl
@[simp] theorem State.takeInputTooLarge_mlen (s : State) (n : Length) : (s.takeInputTooLarge n).mlen = n := rfl
@[simp] theorem State.takeInputTooLarge_bidx (s : State) (n : Length) : (s.takeInputTooLarge n).bidx = s.bidx := rfl
@[simp] theorem State.takeInputTooLarge_upc (s : State) (n : Length) : (s.takeInputTooLarge n).upc = s.upc := rfl
@[simp] theorem State.takeInputTooLarge_st (s : State) (n : Length) : (s.takeInputTooLarge n).st = .faulted := rfl
@[simp] theorem State.takeInputTooLarge_fcause (s : State) (n : Length) : (s.takeInputTooLarge n).fcause = .inputTooLarge := rfl
@[simp] theorem State.takeInputTooLarge_msg (s : State) (n : Length) : (s.takeInputTooLarge n).msg = s.msg := rfl
@[simp] theorem State.takeInputTooLarge_inbox (s : State) (n : Length) : (s.takeInputTooLarge n).inbox = s.inbox := rfl
@[simp] theorem State.takeInputTooLarge_draws (s : State) (n : Length) : (s.takeInputTooLarge n).draws = s.draws := rfl

@[simp] theorem State.beginRun_h (s : State) (n : Length) : (s.beginRun n).h = romIV := rfl
@[simp] theorem State.beginRun_v (s : State) (n : Length) : (s.beginRun n).v = s.v := rfl
@[simp] theorem State.beginRun_w (s : State) (n : Length) : (s.beginRun n).w = s.w := rfl
@[simp] theorem State.beginRun_mlen (s : State) (n : Length) : (s.beginRun n).mlen = n := rfl
@[simp] theorem State.beginRun_bidx (s : State) (n : Length) : (s.beginRun n).bidx = 0 := rfl
@[simp] theorem State.beginRun_upc (s : State) (n : Length) : (s.beginRun n).upc = controlWord phWld 0 := rfl
@[simp] theorem State.beginRun_st (s : State) (n : Length) : (s.beginRun n).st = .accumulating := rfl
@[simp] theorem State.beginRun_fcause (s : State) (n : Length) : (s.beginRun n).fcause = s.fcause := rfl
@[simp] theorem State.beginRun_msg (s : State) (n : Length) : (s.beginRun n).msg = s.msg := rfl
@[simp] theorem State.beginRun_inbox (s : State) (n : Length) : (s.beginRun n).inbox = s.inbox := rfl
@[simp] theorem State.beginRun_draws (s : State) (n : Length) : (s.beginRun n).draws = s.draws := rfl

@[simp] theorem State.resetEvent_h (s : State) : (s.resetEvent).h = Config.resetH s.draws := rfl
@[simp] theorem State.resetEvent_v (s : State) : (s.resetEvent).v = Config.resetV s.draws := rfl
@[simp] theorem State.resetEvent_w (s : State) : (s.resetEvent).w = Config.resetW s.draws := rfl
@[simp] theorem State.resetEvent_mlen (s : State) : (s.resetEvent).mlen = Config.resetMlen s.draws := rfl
@[simp] theorem State.resetEvent_bidx (s : State) : (s.resetEvent).bidx = Config.resetBidx s.draws := rfl
@[simp] theorem State.resetEvent_upc (s : State) : (s.resetEvent).upc = Config.resetUpc s.draws := rfl
@[simp] theorem State.resetEvent_st (s : State) : (s.resetEvent).st = .idle := rfl
@[simp] theorem State.resetEvent_fcause (s : State) : (s.resetEvent).fcause = .none := rfl
@[simp] theorem State.resetEvent_msg (s : State) : (s.resetEvent).msg = s.msg := rfl
@[simp] theorem State.resetEvent_inbox (s : State) : (s.resetEvent).inbox = s.inbox := rfl
@[simp] theorem State.resetEvent_draws (s : State) : (s.resetEvent).draws = s.draws + 1 := rfl

@[simp] theorem State.boundary_h (s : State) : (s.boundary).h = s.h := rfl
@[simp] theorem State.boundary_v (s : State) : (s.boundary).v = s.v := rfl
@[simp] theorem State.boundary_w (s : State) : (s.boundary).w = s.w := rfl
@[simp] theorem State.boundary_mlen (s : State) : (s.boundary).mlen = s.mlen := rfl
@[simp] theorem State.boundary_bidx (s : State) : (s.boundary).bidx = s.bidx := rfl
@[simp] theorem State.boundary_upc (s : State) : (s.boundary).upc = s.upc := rfl
@[simp] theorem State.boundary_st (s : State) : (s.boundary).st = s.st := rfl
@[simp] theorem State.boundary_fcause (s : State) : (s.boundary).fcause = s.fcause := rfl
@[simp] theorem State.boundary_msg (s : State) : (s.boundary).msg = Memory.writeAll s.msg s.pins.poke := rfl
@[simp] theorem State.boundary_inbox (s : State) : (s.boundary).inbox = s.inbox.tail := rfl
@[simp] theorem State.boundary_draws (s : State) : (s.boundary).draws = s.draws := rfl

/-- A boundary at which nothing happens outside and nothing is to come changes nothing. -/
theorem State.boundary_of_quiet {s : State} (h : s.inbox = []) : s.boundary = s := by
  obtain ⟨_, _, _, _, _, _, _, _, _, inbox, _⟩ := s
  subst h
  rfl

/-- The pins are quiet when nothing is to come. -/
theorem State.pins_of_quiet {s : State} (h : s.inbox = []) : s.pins = quiet := by
  simp [State.pins, h]

end Sys2Proof.Machine
end

