-- ==== Sys2Proof/Laws/Exec.lean ====
section
/-! SUPPORT. What a meaning and a step can do, once each: if it answers a next state, then one of these cases holds. Later
proofs cite these instead of unfolding the step. -/

namespace Sys2Proof.Machine

/-- Everything START can do. -/
theorem execStart_next {n : Length} {s t : State} (h : execStart n s = .next t) :
    (s.st.accepts = true ∧ tooLarge n = true ∧ t = s.takeInputTooLarge n) ∨
    (s.st.accepts = true ∧ tooLarge n = false ∧ t = s.beginRun n) ∨
    (s.st.accepts = false ∧ t = s) := by
  unfold execStart at h
  split at h
  · split at h
    · exact .inl ⟨‹_›, ‹_›, (Host.Outcome.next.inj h).symm⟩
    · exact .inr (.inl ⟨‹_›, Bool.eq_false_of_not_eq_true ‹_›, (Host.Outcome.next.inj h).symm⟩)
  · exact .inr (.inr ⟨Bool.eq_false_of_not_eq_true ‹_›, (Host.Outcome.next.inj h).symm⟩)

/-- Everything WLD can do. -/
theorem execWld_next {i : Index} {s t : State} (h : execWld i s = .next t) :
    i < 16#6 ∧ t = (s.writeW i (s.blockWord i)).writeUpc (afterWld i) := by
  unfold execWld at h
  split at h
  · exact ⟨‹_›, (Host.Outcome.next.inj h).symm⟩
  · cases h

/-- Everything WEX can do. -/
theorem execWex_next {i : Index} {s t : State} (h : execWex i s = .next t) :
    16#6 ≤ i ∧ t = (s.writeW i (s.expandWord i)).writeUpc (afterWex i) := by
  unfold execWex at h
  split at h
  · exact ⟨‹_›, (Host.Outcome.next.inj h).symm⟩
  · cases h

/-- Everything VINIT can do. -/
theorem execVinit_next {s t : State} (h : execVinit s = .next t) : t = (s.writeV s.h).writeUpc afterVinit :=
  (Host.Outcome.next.inj h).symm

/-- Everything RND can do. -/
theorem execRnd_next {i : Index} {s t : State} (h : execRnd i s = .next t) :
    t = (s.writeV (s.roundV i)).writeUpc (afterRnd i) :=
  (Host.Outcome.next.inj h).symm

/-- Everything ACC can do. -/
theorem execAcc_next {s t : State} (h : execAcc s = .next t) :
    (s.lastBlock = true ∧ t = ((s.writeH s.sumHV).writeBidx (s.bidx + 1)).writeSt .finalized) ∨
    (s.lastBlock = false ∧ t = ((s.writeH s.sumHV).writeBidx (s.bidx + 1)).writeUpc nextBlock) := by
  unfold execAcc at h
  split at h
  · exact .inl ⟨‹_›, (Host.Outcome.next.inj h).symm⟩
  · exact .inr ⟨Bool.eq_false_of_not_eq_true ‹_›, (Host.Outcome.next.inj h).symm⟩

/-- What a boundary selects: reset first, then a presented START, then the engine. -/
theorem State.fetch_cases (s : State) :
    (s.pins.reset = true ∧ s.fetch = .reset) ∨
    (s.pins.reset = false ∧ goOf s.pins.cmd = true ∧ s.fetch = .run (.start (lengthOf s.pins.cmd))) ∨
    (s.pins.reset = false ∧ goOf s.pins.cmd = false ∧ s.fetch = s.engineFetch) := by
  unfold State.fetch decodeCommand
  cases hr : s.pins.reset <;> cases hg : goOf s.pins.cmd <;> simp

/-- What the engine's own fetch gives. -/
theorem State.engineFetch_cases (s : State) :
    (s.st ≠ .accumulating ∧ s.engineFetch = .idle) ∨
    (s.st = .accumulating ∧ ∃ i, decodeControl s.upc = .ok i ∧ s.engineFetch = .run i) ∨
    (s.st = .accumulating ∧ ∃ r, decodeControl s.upc = .error r ∧ s.engineFetch = .reserved s.upc) := by
  unfold State.engineFetch
  cases hs : s.st <;> simp
  cases hd : decodeControl s.upc <;> simp

/-- Everything a step can do. -/
theorem step_next {s t : State} (h : step s = .next t) :
    (s.fetch = .reset ∧ t = s.boundary.resetEvent) ∨
    (∃ i, s.fetch = .run i ∧ exec i s.boundary = .next t) ∨
    (s.fetch = .idle ∧ t = s.boundary) := by
  unfold step at h
  split at h
  · exact .inl ⟨‹_›, (Host.Outcome.next.inj h).symm⟩
  · exact .inr (.inl ⟨_, ‹_›, h⟩)
  · exact .inr (.inr ⟨‹_›, (Host.Outcome.next.inj h).symm⟩)
  · cases h

/-- A step that runs an operation is exec of it past the boundary. -/
theorem step_of_run {s : State} {i : Instr} (h : s.fetch = .run i) : step s = exec i s.boundary := by
  simp [step, h]

/-- An undisturbed engine step is exec of the operation at `UPC`. -/
theorem step_of_undisturbed {s : State} {i : Instr} (hin : s.inbox = []) (hst : s.st = .accumulating)
    (hd : decodeControl s.upc = .ok i) : step s = exec i s := by
  have hf : s.fetch = .run i := by
    obtain h | h | h := s.fetch_cases
    · rw [State.pins_of_quiet hin] at h; cases h.1
    · rw [State.pins_of_quiet hin] at h; exact absurd h.2.1 (by decide)
    · rw [h.2.2]; simp [State.engineFetch, hst, hd]
  rw [step_of_run hf, State.boundary_of_quiet hin]

end Sys2Proof.Machine
end

