-- ==== Sys2Proof/Laws/Flags.lean ====
section
/-! SUPPORT. What the comparisons that steer control say, and the small facts of the operand forms. -/

namespace Sys2Proof.Machine

/-- START's length check. -/
theorem tooLarge_iff {n : Length} : tooLarge n = true ↔ 2 ^ 61 ≤ n.toNat := decide_eq_true_iff

/-- START's length check, passed. -/
theorem tooLarge_false_iff {n : Length} : tooLarge n = false ↔ n.toNat < 2 ^ 61 := by
  rw [← Bool.not_eq_true, tooLarge_iff, Nat.not_le]

/-- ACC's comparison. -/
theorem State.lastBlock_iff {s : State} : s.lastBlock = true ↔ s.bidx.toNat + 1 = nblk s.mlen.toNat :=
  decide_eq_true_iff

/-- ACC's comparison, failed. -/
theorem State.lastBlock_false_iff {s : State} : s.lastBlock = false ↔ s.bidx.toNat + 1 ≠ nblk s.mlen.toNat := by
  rw [← Bool.not_eq_true, State.lastBlock_iff]

/-- Where a command is accepted. -/
theorem Status.accepts_iff {x : Status} : x.accepts = true ↔ x = .idle ∨ x = .finalized := by
  cases x <;> simp [Status.accepts]

/-- Where a command is ignored. -/
theorem Status.accepts_false_iff {x : Status} : x.accepts = false ↔ x = .accumulating ∨ x = .faulted := by
  cases x <;> simp [Status.accepts]

/-- A length that fits has at most 2^55 + 1 blocks, so `BIDX` does not wrap (R16). -/
theorem nblk_le {n : Nat} (h : n < 2 ^ 61) : nblk n ≤ 2 ^ 55 + 1 := by
  simp only [nblk]; omega

/-- A schedule word just written. -/
@[simp] theorem State.readW_writeW_self (s : State) (i : Index) (x : Word) : (s.writeW i x).readW i = x := by
  simp [State.readW]

/-- The other schedule words. -/
theorem State.readW_writeW_ne (s : State) {i k : Index} (x : Word) (h : k ≠ i) : (s.writeW i x).readW k = s.readW k := by
  have : i.toNat ≠ k.toNat := fun e => h (BitVec.eq_of_toNat_eq e.symm)
  simp [State.readW, this]

/-- The function of three rotations, bit by bit. -/
@[simp] theorem rotations_getLsbD (x : Word) (i j k b : Nat) :
    (rotations x i j k).getLsbD b = ((rotr x i).getLsbD b ^^ (rotr x j).getLsbD b ^^ (rotr x k).getLsbD b) := by
  simp [rotations]

/-- The function of two rotations and a shift, bit by bit. -/
@[simp] theorem rotationsShift_getLsbD (x : Word) (i j k b : Nat) :
    (rotationsShift x i j k).getLsbD b = ((rotr x i).getLsbD b ^^ (rotr x j).getLsbD b ^^ (shr x k).getLsbD b) := by
  simp [rotationsShift]

/-- ACC's sums, word by word. -/
theorem State.sumHV_getElem (s : State) (j : Fin 8) : s.sumHV[j] = s.h[j] + s.v[j] := by
  fin_cases j <;> rfl

end Sys2Proof.Machine
end

