-- ==== Sys2Proof/Laws/Memory.lean ====
section
/-! SUPPORT. The message space keeps its canonical form under every memory operation, and reset's has it. -/

namespace Sys2Proof.Machine

/-- Canonical from a higher address on is canonical from a lower one on. -/
theorem Memory.wfFrom_mono {lo lo' : Nat} {m : List Host.Cell} (h : Memory.wfFrom lo m = true) (hl : lo' ≤ lo) :
    Memory.wfFrom lo' m = true := by
  cases m with
  | nil => rfl
  | cons c rest =>
    obtain ⟨a, b⟩ := c
    simp only [Memory.wfFrom, Bool.and_eq_true, decide_eq_true_eq] at h ⊢
    exact ⟨⟨⟨by omega, h.1.1.2⟩, h.1.2⟩, h.2⟩

/-- The cells of one byte, in front of a tail that starts above it. -/
theorem Memory.wfFrom_cell_append {lo j : Nat} {b : Byte} {m : List Host.Cell} (hl : lo ≤ j) (hj : j < 2 ^ 61)
    (h : Memory.wfFrom (j + 1) m = true) : Memory.wfFrom lo (Memory.cell j b ++ m) = true := by
  unfold Memory.cell
  split
  · exact Memory.wfFrom_mono h (by omega)
  · rename_i hb
    simp only [List.singleton_append, Memory.wfFrom, Bool.and_eq_true, decide_eq_true_eq]
    exact ⟨⟨⟨hl, hj⟩, hb⟩, h⟩

/-- Placing a byte at or above `lo` keeps the canonical form from `lo` on. -/
theorem Memory.wfFrom_write {lo j : Nat} {b : Byte} {m : List Host.Cell} (h : Memory.wfFrom lo m = true) (hl : lo ≤ j)
    (hj : j < 2 ^ 61) : Memory.wfFrom lo (Memory.write m j b) = true := by
  induction m generalizing lo with
  | nil => simpa [Memory.write] using Memory.wfFrom_cell_append (b := b) (m := []) hl hj rfl
  | cons c rest ih =>
    obtain ⟨a, d⟩ := c
    have h' := h
    simp only [Memory.wfFrom, Bool.and_eq_true, decide_eq_true_eq] at h'
    obtain ⟨⟨⟨hla, ha⟩, hd⟩, hrest⟩ := h'
    simp only [Memory.write]
    split
    · refine Memory.wfFrom_cell_append hl hj ?_
      simp only [Memory.wfFrom, Bool.and_eq_true, decide_eq_true_eq]
      exact ⟨⟨⟨by omega, ha⟩, hd⟩, hrest⟩
    · split
      · rename_i hja
        exact Memory.wfFrom_cell_append hl hj (hja ▸ hrest)
      · simp only [Memory.wfFrom, Bool.and_eq_true, decide_eq_true_eq]
        exact ⟨⟨⟨hla, ha⟩, hd⟩, ih hrest (by omega)⟩

/-- Placing a byte keeps the canonical form. -/
theorem Memory.wf_write {m : List Host.Cell} {j : Nat} {b : Byte} (h : Memory.wf m = true) (hj : j < 2 ^ 61) :
    Memory.wf (Memory.write m j b) = true := Memory.wfFrom_write h (by omega) hj

/-- Placing several bytes keeps the canonical form. -/
theorem Memory.wf_writeAll {m : List Host.Cell} {bytes : List (MsgIndex × Byte)} (h : Memory.wf m = true) :
    Memory.wf (Memory.writeAll m bytes) = true := by
  induction bytes generalizing m with
  | nil => exact h
  | cons p rest ih => exact ih (Memory.wf_write h p.1.isLt)

/-- A boundary keeps the canonical form. -/
theorem State.boundary_wf {s : State} (h : Memory.wf s.msg = true) : Memory.wf s.boundary.msg = true := Memory.wf_writeAll h

/-- The message space at reset is canonical. -/
theorem State.reset_msg_wf : Memory.wf State.reset.msg = true := rfl

/-- Nothing is read below the address a canonical list starts at. -/
theorem Memory.read_below {lo j : Nat} {m : List Host.Cell} (h : Memory.wfFrom lo m = true) (hj : j < lo) :
    Memory.read m j = Memory.unlisted := by
  induction m generalizing lo with
  | nil => rfl
  | cons c rest ih =>
    obtain ⟨a, b⟩ := c
    simp only [Memory.wfFrom, Bool.and_eq_true, decide_eq_true_eq] at h
    simp only [Memory.read]
    rw [if_neg (by omega)]
    exact ih h.2 (by omega)

/-- Reading through the cells of one byte. -/
theorem Memory.read_cell_append (j k : Nat) (b : Byte) (m : List Host.Cell) :
    Memory.read (Memory.cell j b ++ m) k =
      if k = j ∧ b ≠ Memory.unlisted then b else Memory.read m k := by
  unfold Memory.cell
  by_cases hb : b = Memory.unlisted
  · simp [hb]
  · simp [hb, Memory.read, eq_comm]

end Sys2Proof.Machine
end

