-- ==== Sys2Proof/Laws/PerInstr.lean ====
section
/-! SUPPORT. Per-instruction laws: the word written for a term that is no operation is rejected by the decoder, never
read as another operation (30_encoding.md R77). -/

namespace Sys2Proof.Laws

/-- An ill-formed term's word has no meaning. -/
def IllFormedRefused.Statement (i : Instr) : Prop :=
  i.wellFormed = false → ∃ r, decode (encode i) = .error r

theorem IllFormedRefused.start (n : Length) : IllFormedRefused.Statement (.start n) := by
  intro h; cases h

theorem IllFormedRefused.wld (ix : Index) : IllFormedRefused.Statement (.wld ix) := by
  revert ix
  unfold IllFormedRefused.Statement
  intro ix h
  refine ⟨.wldIndex, ?_⟩
  revert ix
  decide

theorem IllFormedRefused.wex (ix : Index) : IllFormedRefused.Statement (.wex ix) := by
  revert ix
  unfold IllFormedRefused.Statement
  intro ix h
  refine ⟨.wexIndex, ?_⟩
  revert ix
  decide

theorem IllFormedRefused.vinit : IllFormedRefused.Statement .vinit := by
  intro h; cases h

theorem IllFormedRefused.rnd (ix : Index) : IllFormedRefused.Statement (.rnd ix) := by
  intro h; cases h

theorem IllFormedRefused.acc : IllFormedRefused.Statement .acc := by
  intro h; cases h

end Sys2Proof.Laws
end

