-- ==== Sys2Proof/Laws/Run.lean ====
section
/-! SUPPORT. Runs of the machine: composing them, and the one-step unfoldings of runs and traces, so that a claim about
many steps is put together from claims about fewer. -/

namespace Sys2Proof.Machine

/-- A run of one step more. -/
theorem run_succ {k : Nat} {s t : State} (h : step s = .next t) :
    Host.Core.run core (k + 1) s = Host.Core.run core k t := by
  have h' : core.step s = .next t := h
  simp only [Host.Core.run, h']

/-- Two runs in a row. -/
theorem run_add {j k : Nat} {s t : State} (h : Host.Core.run core j s = .next t) :
    Host.Core.run core (j + k) s = Host.Core.run core k t := by
  induction j generalizing s with
  | zero =>
    obtain rfl : s = t := Host.Outcome.next.inj h
    rw [Nat.zero_add]
  | succ j ih =>
    cases hs : step s with
    | next u =>
      rw [run_succ hs] at h
      rw [show j + 1 + k = j + k + 1 by omega, run_succ hs]
      exact ih h
    | fault r => cases r
    | refused r =>
      have hs' : core.step s = .refused r := hs
      simp only [Host.Core.run, hs'] at h
      cases h

/-- The state after a step that answers one. -/
theorem State.after_of_step {s t : State} (h : step s = .next t) : s.after = t := by
  simp [State.after, h]

/-- A trace in two parts. -/
theorem opsRun_add (j k : Nat) (s : State) : opsRun (j + k) s = opsRun j s ++ opsRun k (State.after^[j] s) := by
  induction j generalizing s with
  | zero => simp [opsRun]
  | succ j ih => rw [show j + 1 + k = j + k + 1 by omega]; simp [opsRun, ih, List.append_assoc]

/-- The reads of a run in two parts. -/
theorem readsRun_add (j k : Nat) (s : State) :
    readsRun (j + k) s = readsRun j s ++ readsRun k (State.after^[j] s) := by
  induction j generalizing s with
  | zero => simp [readsRun]
  | succ j ih => rw [show j + 1 + k = j + k + 1 by omega]; simp [readsRun, ih, List.append_assoc]

end Sys2Proof.Machine
end

