-- ==== Sys2Proof/Tests/Slice0.lean ====
section
/-! SUPPORT. The model's own tests: decoding of words written out from the spec's encodings, at most two small theorems per
operation with expected values from 95_test_vectors.md, and for every statement with hypotheses a witness that meets
them. -/

namespace Sys2Proof.Tests

open Sys2Proof.Machine

/-! ### Helpers -/

/-- The outcome is a next state with property `p`. -/
def nextHas (o : Host.Outcome State Fault Refusal) (p : State → Bool) : Bool :=
  match o with
  | .next t => p t
  | .fault _ => false
  | .refused _ => false

/-- Right after START 3 over "abc" (95_test_vectors.md section 3). -/
def abc : State :=
  { State.reset with
    h := romIV
    mlen := 3
    st := .accumulating
    msg := [(0, 0x61), (1, 0x62), (2, 0x63)] }

/-- The message "abc" placed and START 3 presented at the next boundary, from reset. -/
def abcPresented : State :=
  { State.reset with inbox := [⟨false, commandWord 1 3, [(0, 0x61), (1, 0x62), (2, 0x63)]⟩] }

/-- The block of "abc" at its last operation (95_test_vectors.md section 3, after RND 63). -/
def abcAtAcc : State :=
  { abc with
    v := #v[0x506e3058, 0xd39a2165, 0x04d24d6c, 0xb85e2ce9, 0x5ef50f24, 0xfb121210, 0x948d25b6, 0x961f4894]
    upc := 0x100 }

/-- `abc` finished. -/
def abcDone : State :=
  { abcAtAcc with
    h := #v[0xba7816bf, 0x8f01cfea, 0x414140de, 0x5dae2223, 0xb00361a3, 0x96177a9c, 0xb410ff61, 0xf20015ad]
    bidx := 1
    st := .finalized }

/-- The state after a refused START 2^61 (95_test_vectors.md section 7, event 1). -/
def refusedRun : State := State.reset.takeInputTooLarge 0x2000000000000000

/-! ### Encodings -/

/-- 30_encoding.md R76: START is bit 64 set, then the length. -/
theorem test_decode_start : decodeCommand 0x10000000000000038#65 = .ok (.start 56) := by decide

/-- R76: WLD is 000 00iiii. -/
theorem test_decode_wld : decodeControl 0b000001111#9 = .ok (.wld 15) := by decide

/-- R76: WEX is 001 iiiiii, i >= 16. -/
theorem test_decode_wex : decodeControl 0b001010000#9 = .ok (.wex 16) ∧ decodeControl 0b001111111#9 = .ok (.wex 63) := by
  decide

/-- R76: VINIT is 010 000000. -/
theorem test_decode_vinit : decodeControl 0b010000000#9 = .ok .vinit := by decide

/-- R76: RND is 011 iiiiii; 0x0C5 is RND 5 (95_test_vectors.md section 7). -/
theorem test_decode_rnd : decodeControl 0b011000101#9 = .ok (.rnd 5) := by decide

/-- R76: ACC is 100 000000. -/
theorem test_decode_acc : decodeControl 0b100000000#9 = .ok .acc := by decide

/-- 95_test_vectors.md section 2.3: every word it lists as reserved. -/
theorem test_reserved_words :
    ([0x010, 0x03f, 0x040, 0x04f, 0x081, 0x101, 0x140, 0x1ff] : List ControlWord).all (fun w => !legalWord w) := by decide

/-- R78: go = 0 is no command, whatever n holds. -/
theorem test_no_command : decodeCommand 0x0ffffffffffffffff#65 = .error .noCommand := by decide

/-- WellFormed refuses WLD with an index above 15 and WEX with one below 16, and takes the boundary indices. -/
theorem test_wellformed :
    Instr.wellFormed (.wld 16) = false ∧ Instr.wellFormed (.wex 15) = false ∧
    Instr.wellFormed (.wld 15) = true ∧ Instr.wellFormed (.wex 16) = true := by decide

/-- The table's word of each row, placed where the step fetches, is what the step runs right after reset. -/
theorem test_placed_words_run :
    (State.reset.withFetchWord 72 0x10000000000000000).fetch = .run (.start 0) ∧
    (State.reset.withFetchWord 16 0x000).fetch = .run (.wld 0) ∧
    (State.reset.withFetchWord 16 0x050).fetch = .run (.wex 16) ∧
    (State.reset.withFetchWord 16 0x080).fetch = .run .vinit ∧
    (State.reset.withFetchWord 16 0x0C0).fetch = .run (.rnd 0) ∧
    (State.reset.withFetchWord 16 0x100).fetch = .run .acc ∧
    decodeTableWord 16 0x200 = none ∧ decodeTableWord 72 (2 ^ 65) = none := by decide

/-! ### The ALU and the padder -/

/-- 95_test_vectors.md section 2.1. -/
theorem test_alu_vectors :
    add32 0x6a09e667 0xfc08884d = 0x66126eb4 ∧ rotr 0xdeadbeef 13 = 0xf77ef56d ∧ shr 0xdeadbeef 10 = 0x0037ab6f ∧
    ssig0 0x12345678 = 0xe7fce6ee ∧ ssig1 0x12345678 = 0xa1f78649 ∧ bsig0 0x12345678 = 0x66146474 ∧
    bsig1 0x12345678 = 0x3561abda ∧ ch 0xf0f0f0f0 0xcccccccc 0xaaaaaaaa = 0xcacacaca ∧
    maj 0x510e527f 0x9b05688c 0x1f83d9ab = 0x1b0758af := by decide

/-- 10_state.md R20: four entries of the table read at their index. -/
theorem test_k_entries :
    romK 0 = 0x428a2f98 ∧ romK 20 = 0x2de92c6f ∧ romK 47 = 0x106aa070 ∧ romK 63 = 0xc67178f2 := by decide

/-- 41_padding.md R136: z, PLEN and NBLK at the block boundaries and at the largest length. -/
theorem test_padding_table :
    ([0, 55, 56, 63, 64, 119, 120, 2305843009213693951] : List Nat).map (fun n => (zeroFill n, plen n, nblk n)) =
    [(55, 64, 1), (0, 64, 1), (63, 128, 2), (56, 128, 2), (55, 128, 2), (0, 128, 2), (63, 192, 3),
      (56, 2305843009213694016, 36028797018963969)] := by decide

/-- 41_padding.md R133, example: "abc" pads to 61 62 63 80, zeros, and the length 18 in the last byte. -/
theorem test_pad_bytes_abc :
    [0, 2, 3, 4, 55, 56, 62, 63].map abc.padByte = [0x61, 0x63, 0x80, 0x00, 0x00, 0x00, 0x00, 0x18] := by decide

/-- 95_test_vectors.md section 2.3: the length field of n = 2^61 − 1. -/
theorem test_length_field_largest :
    (List.range 8).map (be64Byte (8 * 2305843009213693951)) =
      [0xff, 0xff, 0xff, 0xff, 0xff, 0xff, 0xff, 0xf8] := by decide

/-! ### The operations -/

/-- 95_test_vectors.md section 2.6: START 3 after reset, and the largest accepted length. -/
theorem test_start_accepted :
    nextHas (exec (.start 3) State.reset) (fun t => decide
      (t.h = romIV ∧ t.mlen = 3 ∧ t.bidx = 0 ∧ t.upc = 0x000 ∧ t.st = .accumulating)) = true ∧
    nextHas (exec (.start 0x1fffffffffffffff) State.reset) (fun t => decide (t.st = .accumulating)) = true := by decide

/-- 95_test_vectors.md section 2.6: START 2^64 − 1 from FINALIZED faults and leaves `H`. -/
theorem test_start_too_large :
    nextHas (exec (.start 0xffffffffffffffff) abcDone) (fun t => decide
      (t.st = .faulted ∧ t.fcause = .inputTooLarge ∧ t.mlen = 0xffffffffffffffff ∧ t.h = abcDone.h)) = true := by decide

/-- 42_schedule.md R150, example: the word that straddles the end of "abc". -/
theorem test_wld_straddles :
    nextHas (exec (.wld 0) abc) (fun t => decide (t.readW 0 = 0x61626380 ∧ t.upc = 0x001)) = true := by decide

/-- R150, R184: WLD 15 loads the low half of the length and goes to WEX 16. -/
theorem test_wld_last :
    nextHas (exec (.wld 15) abc) (fun t => decide (t.readW 15 = 0x00000018 ∧ t.upc = 0x050)) = true := by decide

/-- 95_test_vectors.md section 2.4: WEX 17 of "abc". -/
theorem test_wex_taps :
    nextHas (exec (.wex 17) ((abc.writeW 0 0x61626380).writeW 15 0x18))
      (fun t => decide (t.readW 17 = 0x000f0000 ∧ t.upc = 0x052)) = true := by decide

/-- 95_test_vectors.md section 2.4: WEX 31 of the empty message, from its four sources. -/
theorem test_wex_four_terms :
    nextHas (exec (.wex 31) (((abc.writeW 16 0x80000000).writeW 24 0x58080000).writeW 29 0x14225508))
      (fun t => decide (t.readW 31 = 0xc9282000)) = true := by decide

/-- 43_compression.md R161: VINIT copies `H` and goes to RND 0. -/
theorem test_vinit : nextHas (exec .vinit abc) (fun t => decide (t.v = romIV ∧ t.upc = 0x0C0)) = true := by decide

/-- 43_compression.md R162, example: RND 0 of "abc". -/
theorem test_rnd_first :
    nextHas (exec (.rnd 0) ((abc.writeV romIV).writeW 0 0x61626380)) (fun t => decide
      (t.v = #v[0x5d6aebcd, 0x6a09e667, 0xbb67ae85, 0x3c6ef372, 0xfa2a4622, 0x510e527f, 0x9b05688c, 0x1f83d9ab] ∧
        t.upc = 0x0C1)) = true := by decide

/-- 95_test_vectors.md section 3: RND 63 of "abc" and its successor ACC. -/
theorem test_rnd_last :
    nextHas (exec (.rnd 63)
      ((abc.writeV #v[0xd39a2165, 0x04d24d6c, 0xb85e2ce9, 0xb6ae8fff, 0xfb121210, 0x948d25b6, 0x961f4894,
        0xb21bad3d]).writeW 63 0x12b1edeb))
      (fun t => decide (t.v = abcAtAcc.v ∧ t.upc = 0x100)) = true := by decide

/-- 43_compression.md R164, example: the ACC of "abc" finalises and keeps `UPC`. -/
theorem test_acc_final :
    nextHas (exec .acc abcAtAcc) (fun t => decide
      (t.h = abcDone.h ∧ t.bidx = 1 ∧ t.st = .finalized ∧ t.upc = 0x100)) = true := by decide

/-- 95_test_vectors.md section 2.6: ACC with a block left goes to WLD 0. -/
theorem test_acc_not_last :
    nextHas (exec .acc { abcAtAcc with mlen := 56 }) (fun t => decide
      (t.bidx = 1 ∧ t.st = .accumulating ∧ t.upc = 0x000)) = true := by decide

/-! ### The step and the ports -/

/-- 95_test_vectors.md section 7, event 6: a START while busy changes nothing. -/
theorem test_stray_start :
    nextHas (step { abc with upc := 0x0C5, inbox := [⟨false, commandWord 1 0, []⟩] })
      (fun t => decide (t = { abc with upc := 0x0C5 })) = true := by decide

/-- 60_exceptions.md R206: reset wins over a presented START and over the engine. -/
theorem test_reset_wins :
    nextHas (step { abc with inbox := [⟨true, commandWord 1 7, []⟩] })
      (fun t => decide (t.st = .idle ∧ t.fcause = .none ∧ t.inbox = [])) = true := by decide

/-- The bytes placed at a boundary are there for the START of the same boundary, and the next step reads them. -/
theorem test_place_and_start : nextHas (step abcPresented) (fun t => decide (t = abc)) = true := by decide

/-- 95_test_vectors.md section 3: the digest of "abc" on the port, first and last bytes. -/
theorem test_digest_port :
    (abcDone.digestPort 0)[0]? = some 0xba ∧ (abcDone.digestPort 5)[31]? = some 0xad ∧
    (abcDone.digestPort 0).length = 32 := by decide

/-! ### Witnesses: for each statement with hypotheses, a state and operands that meet them -/

/-- DecodeInvertsEncode, at the boundary indices and the largest length. -/
theorem witness_decode_inverts_encode :
    ([.start 0xffffffffffffffff, .wld 0, .wld 15, .wex 16, .wex 63, .vinit, .rnd 63, .acc] : List Instr).all
      Instr.wellFormed = true := by decide

/-- MeaningfulWordIsItsEncoding, on both paths. -/
theorem witness_meaningful_word :
    decode (.command 0x10000000000000003#65) = .ok (.start 3) ∧ decode (.control 0x0FF#9) = .ok (.rnd 63) := by decide

/-- The invariant, in a state where the engine runs. -/
theorem witness_inv_running : Inv abc := ⟨by decide, by decide, by decide, by decide, by decide, by decide⟩

/-- The invariant, in FINALIZED. -/
theorem witness_inv_finalized : Inv abcDone := ⟨by decide, by decide, by decide, by decide, by decide, by decide⟩

/-- The invariant, in FAULTED. -/
theorem witness_inv_faulted : Inv refusedRun := ⟨by decide, by decide, by decide, by decide, by decide, by decide⟩

/-- ReservedWordsAreRefusedAndNeverOccur: a reserved word in UPC in ACCUMULATING, nothing outside. -/
theorem witness_reserved_word :
    ({ abc with upc := 0x010 } : State).st = .accumulating ∧ ({ abc with upc := 0x010 } : State).inbox = [] ∧
    legalWord ({ abc with upc := 0x010 } : State).upc = false := by decide

/-- LengthFieldFillsTheLastTwoWords: the last block of a message of one, and of two blocks. -/
theorem witness_length_field :
    (abc.mlen.toNat < 2 ^ 61 ∧ abc.bidx.toNat + 1 = nblk abc.mlen.toNat) ∧
    (let s : State := { abc with mlen := 56, bidx := 1 }
     s.mlen.toNat < 2 ^ 61 ∧ s.bidx.toNat + 1 = nblk s.mlen.toNat) := by decide

/-- RotationIsCircular and ShiftIsDivision: both ends of the range of amounts. -/
theorem witness_amounts : (1 ≤ 1 ∧ 1 ≤ 31) ∧ (1 ≤ 31 ∧ 31 ≤ 31) := by decide

/-- PadByteCases: an index of each of the four cases, at its boundary; the length is the shortest message of two blocks. -/
theorem witness_pad_cases :
    (let s : State := { abc with mlen := 56 }
     s.mlen.toNat < 2 ^ 61 ∧ [0, 55, 56, 57, 119, 120, 127].all
       (fun j => decide (j < 64 * ((s.mlen.toNat + 8) / 64 + 1)))) := by decide

/-- PadByteIsTheProcedure: a length that fits. -/
theorem witness_pad_procedure : abc.mlen.toNat < 2 ^ 61 := by decide

/-- PaddingProperties: the empty message and another, each of a length that fits. -/
theorem witness_padding : ([] : List Byte).length < 2 ^ 61 ∧ ([0x80] : List Byte).length < 2 ^ 61 := by decide

/-- PlacedByteIsRead and EqualReadsEqualMemories: a canonical message space. -/
theorem witness_canonical : Memory.wf abc.msg = true := by decide

/-- StartBeginsOrFaults, TooLargeEntersFault: both accepting states, with lengths on both sides of the bound. -/
theorem witness_start_accepts :
    (State.reset.st = .idle ∨ State.reset.st = .finalized) ∧ (abcDone.st = .idle ∨ abcDone.st = .finalized) ∧
    2 ^ 61 ≤ (0x2000000000000000#64).toNat ∧ ¬2 ^ 61 ≤ (0x1fffffffffffffff#64).toNat := by decide

/-- StartIgnoredWhileBusyOrFaulted: both ignoring states, a START presented. -/
theorem witness_start_ignored :
    (abc.st = .accumulating ∨ abc.st = .faulted) ∧ (refusedRun.st = .accumulating ∨ refusedRun.st = .faulted) ∧
    ({ refusedRun with inbox := [⟨false, commandWord 1#1 3, []⟩] } : State).inbox = ⟨false, commandWord 1#1 3, []⟩ :: [] := by
  decide

/-- WldLoadsItsWord: both successors. -/
theorem witness_wld :
    (14#6).toNat ≤ 15 ∧ (15#6).toNat ≤ 15 ∧ (14#6).toNat < 15 ∧ ¬(15#6).toNat < 15 ∧
    abc.mlen.toNat < 2 ^ 61 ∧ abc.bidx.toNat < nblk abc.mlen.toNat := by decide

/-- WexExpandsItsWord: both ends and both successors. -/
theorem witness_wex : 16 ≤ (16#6).toNat ∧ 16 ≤ (63#6).toNat ∧ (16#6).toNat < 63 ∧ ¬(63#6).toNat < 63 := by decide

/-- RndRunsOneRound: the premises name the parts of any state. -/
theorem witness_rnd :
    (abc.writeV romIV).v = #v[0x6a09e667, 0xbb67ae85, 0x3c6ef372, 0xa54ff53a, 0x510e527f, 0x9b05688c, 0x1f83d9ab,
      0x5be0cd19] ∧
    (0x54da50e8 : Word) = 0x5be0cd19 + bsig1 0x510e527f + ch 0x510e527f 0x9b05688c 0x1f83d9ab + romK 0 +
      ((abc.writeV romIV).writeW 0 0x61626380).w[(0#6).toNat] ∧
    (0x08909ae5 : Word) = bsig0 0x6a09e667 + maj 0x6a09e667 0xbb67ae85 0x3c6ef372 := by decide

/-- AccAccumulates: the last block and a block before it, and a count that fits. -/
theorem witness_acc :
    abcAtAcc.bidx.toNat + 1 < 2 ^ 56 ∧ abcAtAcc.bidx.toNat + 1 = (abcAtAcc.mlen.toNat + 8) / 64 + 1 ∧
    abcAtAcc.bidx.toNat + 1 ≠ ((56#64).toNat + 8) / 64 + 1 := by decide

/-- IndexOutsideRangeIsRefused: the nearest indices outside. -/
theorem witness_index_outside : 16 ≤ (16#6).toNat ∧ (15#6).toNat ≤ 15 := by decide

/-- StartFrame: START answers a next state in each of its three ways. -/
theorem witness_start_frame :
    nextHas (exec (.start 3) State.reset) (fun t => decide (t.st ≠ .faulted)) = true ∧
    nextHas (exec (.start 0x2000000000000000) State.reset) (fun t => decide (t.st = .faulted)) = true ∧
    nextHas (exec (.start 3) abc) (fun t => decide (t = abc)) = true := by decide

/-- ScheduleFrame and RoundFrame: the four operations answer a next state. -/
theorem witness_engine_frames :
    nextHas (exec (.wld 15) abc) (fun _ => true) = true ∧ nextHas (exec (.wex 16) abc) (fun _ => true) = true ∧
    nextHas (exec .vinit abc) (fun _ => true) = true ∧ nextHas (exec (.rnd 0) abc) (fun _ => true) = true := by decide

/-- AccFrame and EngineWritesNoMemory: ACC and a step answer a next state. -/
theorem witness_acc_frame :
    nextHas (exec .acc abcAtAcc) (fun _ => true) = true ∧ nextHas (step abcPresented) (fun _ => true) = true := by decide

/-- StepRunsTheDecodedOperation: the engine's own operation, with a quiet boundary to come and with none. -/
theorem witness_step_engine :
    abc.st = .accumulating ∧ (abc.inbox.headD quiet).reset = false ∧ goOf (abc.inbox.headD quiet).cmd = false ∧
    decodeControl abc.upc = .ok (.wld 0) := by decide

/-- StepRunsThePresentedCommand: a command at the boundary. -/
theorem witness_step_command :
    (abcPresented.inbox.headD quiet).reset = false ∧ goOf (abcPresented.inbox.headD quiet).cmd = true := by decide

/-- ResetWinsAndClears, and the second half of FaultIsStickyUntilReset: reset asserted in FAULTED. -/
theorem witness_reset :
    (let s : State := { refusedRun with inbox := [⟨true, 0, []⟩] }
     (s.inbox.headD quiet).reset = true ∧ s.st = .faulted) := by decide

/-- NoEngineStepUnlessAccumulating, and the first half of FaultIsStickyUntilReset. -/
theorem witness_no_engine_step :
    refusedRun.st = .faulted ∧ refusedRun.st ≠ .accumulating ∧ (refusedRun.inbox.headD quiet).reset = false ∧
    goOf (refusedRun.inbox.headD quiet).cmd = false ∧ refusedRun.inbox = [] := by decide

/-- StartRacesTheFinalAcc: the last operation of "abc". -/
theorem witness_race :
    abcAtAcc.st = .accumulating ∧ abcAtAcc.upc = 0x100#9 ∧ abcAtAcc.bidx.toNat + 1 = nblk abcAtAcc.mlen.toNat ∧
    (0#64).toNat < 2 ^ 61 := by decide

/-- StepKeepsTheInvariant, NothingStopsTheMachine and StatusTransitions: a step from a state of the invariant answers a next
state, in which the status has changed. -/
theorem witness_step_answers : Inv abcAtAcc ∧ nextHas (step abcAtAcc) (fun t => decide (t.st = .finalized)) = true :=
  ⟨⟨by decide, by decide, by decide, by decide, by decide, by decide⟩, by decide⟩

/-- OnlyStartAndAccChangeTheHash: a START and an ACC that change it. -/
theorem witness_hash_changes :
    nextHas (step abcPresented) (fun t => decide (t.h ≠ abcPresented.h)) = true ∧
    nextHas (step abcAtAcc) (fun t => decide (t.h ≠ abcAtAcc.h)) = true ∧
    (abcPresented.inbox.headD quiet).reset = false ∧ (abcAtAcc.inbox.headD quiet).reset = false := by decide

/-- SuccessorTable: a legal position on each side of every line of the table. -/
theorem witness_successors :
    ([0x000, 0x00E, 0x00F, 0x050, 0x07E, 0x07F, 0x080, 0x0C0, 0x0FE, 0x0FF, 0x100] : List ControlWord).all legalWord =
      true ∧ abc.st = .accumulating ∧ abc.inbox = [] := by decide

/-- ControlIgnoresData: two states that differ in every piece of data and agree on control. -/
theorem witness_same_control :
    (let s : State := { abc with h := abcDone.h, v := romIV, w := abc.w.set 3 7, msg := [(1, 0xff)] }
     s.upc = abc.upc ∧ s.bidx = abc.bidx ∧ s.st = abc.st ∧ s.mlen = abc.mlen ∧ s.inbox = abc.inbox ∧
       s.draws = abc.draws ∧ s ≠ abc) := by decide

/-- ControlIgnoresDataWithoutReset: two states that differ in their data and in the bytes to be placed, and draws. -/
theorem witness_same_commands :
    (let s : State := { abc with h := abcDone.h, draws := 1, inbox := [⟨false, commandWord 1#1 7, [(2, 0xff)]⟩] }
     let s' : State := { abc with inbox := [⟨false, commandWord 1#1 7, []⟩] }
     s.upc = s'.upc ∧ s.bidx = s'.bidx ∧ s.st = s'.st ∧ s.mlen = s'.mlen ∧
       s.inbox.map HostInput.cmd = s'.inbox.map HostInput.cmd ∧ (∀ x ∈ s.inbox, x.reset = false) ∧
       (∀ x ∈ s'.inbox, x.reset = false) ∧ s ≠ s') := by decide

/-- RunExecutesTheBlocksInOrder and EachMessageByteReadOnceInOrder: the state after START 3 over "abc". -/
theorem witness_started : Started abc := ⟨rfl, by decide, rfl, rfl, by decide, rfl⟩

/-- BlockComputesTheCompression: the first block of one message and the second block of another. -/
theorem witness_block :
    (abc.st = .accumulating ∧ abc.upc = 0x000#9 ∧ abc.inbox = [] ∧ abc.mlen.toNat < 2 ^ 61 ∧
      abc.bidx.toNat < nblk abc.mlen.toNat) ∧ (1#56).toNat < nblk (56#64).toNat := by decide

/-- DigestOfTheMessage: "abc" placed and START 3 presented, from reset. -/
theorem witness_digest :
    (abcPresented.st = .idle ∨ abcPresented.st = .finalized) ∧ (3#64).toNat < 2 ^ 61 ∧
    abcPresented.inbox = [⟨false, commandWord 1#1 3, [(0, 0x61), (1, 0x62), (2, 0x63)]⟩] := by decide

/-- DigestOfTheBytesPlacedBefore: "abc" placed at one boundary, START 3 presented at the next. -/
theorem witness_placed_before :
    (let p : List (MsgIndex × Byte) := [(0, 0x61), (1, 0x62), (2, 0x63)]
     let s : State := { State.reset with inbox := [⟨false, 0#65, p⟩, ⟨false, commandWord 1#1 3, []⟩] }
     (s.st = .idle ∨ s.st = .finalized) ∧ (3#64).toNat < 2 ^ 61 ∧
       s.inbox = [⟨false, 0#65, p⟩, ⟨false, commandWord 1#1 3, []⟩]) := by decide

/-- DigestIndependentOfThePast: reset and a finished machine, with the same two message bytes. -/
theorem witness_independent :
    (let s : State := { State.reset with msg := abc.msg, inbox := [⟨false, commandWord 1#1 2, []⟩] }
     let s' : State := { abcDone with inbox := [⟨false, commandWord 1#1 2, []⟩] }
     (s.st = .idle ∨ s.st = .finalized) ∧ (s'.st = .idle ∨ s'.st = .finalized) ∧ (2#64).toNat < 2 ^ 61 ∧
       s.inbox = [⟨false, commandWord 1#1 2, []⟩] ∧ s'.inbox = [⟨false, commandWord 1#1 2, []⟩] ∧
       ∀ j, j < (2#64).toNat → s.readMsg j = s'.readMsg j) := by decide

/-- DigestPortShowsTheHash and DigestStaysValid: a finished machine left alone. -/
theorem witness_finalized :
    abcDone.st = .finalized ∧ (abcDone.inbox.headD quiet).reset = false ∧
    goOf (abcDone.inbox.headD quiet).cmd = false := by decide

/-- NothingElseIsVisible: two running machines with different hash states. -/
theorem witness_not_visible :
    (let s : State := { abc with h := abcDone.h }
     s.st = abc.st ∧ s.fcause = abc.fcause ∧ s.st ≠ .finalized ∧ s.h ≠ abc.h) := by decide

end Sys2Proof.Tests
end

section
/-! SUPPORT. The fields of a control word read back, what the decoder answers for a control word, and which control
words the sequencer writes (30_encoding.md R74, R76, 44_control.md R184). -/

namespace Sys2Proof

/-- The field `PH` of a control word. -/
@[simp] theorem phaseOf_controlWord (ph : BitVec 3) (ix : Index) : phaseOf (controlWord ph ix) = ph :=
  BitVec.extractLsb'_append_eq_left

/-- The field `IX` of a control word. -/
@[simp] theorem indexOf_controlWord (ph : BitVec 3) (ix : Index) : indexOf (controlWord ph ix) = ix :=
  BitVec.extractLsb'_append_eq_right

/-- A control word is its two fields. -/
theorem controlWord_fields (w : ControlWord) : controlWord (phaseOf w) (indexOf w) = w :=
  (BitVec.extractLsb'_append_extractLsb'_eq_extractLsb' (len₂ := 3) (len₁ := 6) rfl).trans BitVec.extractLsb'_eq_self

/-- A control word with a meaning is the encoding of that one well-formed operation (R76, R77). -/
theorem decodeControl_ok {w : ControlWord} {i : Instr} (h : decodeControl w = .ok i) :
    i.wellFormed = true ∧ encode i = .control w := by
  have hw := controlWord_fields w
  unfold decodeControl at h
  split_ifs at h <;> cases h
  all_goals simp_all [Instr.wellFormed, encode]

/-- No control word stands for START, which travels on the command port only (R79). -/
theorem decodeControl_ne_start (w : ControlWord) (n : Length) : decodeControl w ≠ .ok (.start n) := fun h => by
  cases (decodeControl_ok h).2

namespace Machine

/-- `WLD i` for an index in its range is a legal position. -/
theorem legalWord_wld {i : Index} (h : i < 16#6) : legalWord (controlWord phWld i) = true := by
  simp [legalWord, decodeControl, h]

/-- `WEX i` for an index in its range is a legal position. -/
theorem legalWord_wex {i : Index} (h : 16#6 ≤ i) : legalWord (controlWord phWex i) = true := by
  simp [legalWord, decodeControl, h, phWex, phWld]

/-- `RND i` is a legal position for every index. -/
theorem legalWord_rnd (i : Index) : legalWord (controlWord phRnd i) = true := by
  simp [legalWord, decodeControl, phRnd, phVinit, phWex, phWld]

/-- The successor of every `WLD i` is a legal position (R184). -/
theorem legalWord_afterWld (i : Index) : legalWord (afterWld i) = true := by
  unfold afterWld
  split
  · exact legalWord_wld (by bv_omega)
  · decide

/-- The successor of every `WEX i` is a legal position (R184). -/
theorem legalWord_afterWex {i : Index} (h : 16#6 ≤ i) : legalWord (afterWex i) = true := by
  unfold afterWex
  split
  · exact legalWord_wex (by bv_omega)
  · decide

/-- The successor of every `RND i` is a legal position (R184). -/
theorem legalWord_afterRnd (i : Index) : legalWord (afterRnd i) = true := by
  unfold afterRnd
  split
  · exact legalWord_rnd _
  · decide

end Machine
end Sys2Proof
end

section
/-! SUPPORT. What a step can do, with the event that made it happen, and what the engine's operations leave unchanged:
the case analysis from which the claims about every step are derived (44_control.md R183, 60_exceptions.md R206). -/

namespace Sys2Proof.Machine

/-- Everything a step can do, by the event at its boundary: reset, a presented START, an operation of the running engine,
or nothing. -/
theorem step_cases {s t : State} (h : step s = .next t) :
    (s.pins.reset = true ∧ t = s.boundary.resetEvent) ∨
    (s.pins.reset = false ∧ goOf s.pins.cmd = true ∧ execStart (lengthOf s.pins.cmd) s.boundary = .next t) ∨
    (s.pins.reset = false ∧ goOf s.pins.cmd = false ∧ s.st = .accumulating ∧
      ∃ i, decodeControl s.upc = .ok i ∧ exec i s.boundary = .next t) ∨
    (s.pins.reset = false ∧ goOf s.pins.cmd = false ∧ s.st ≠ .accumulating ∧ t = s.boundary) := by
  unfold step at h
  obtain ⟨hr, hf⟩ | ⟨hr, hgo, hf⟩ | ⟨hr, hgo, hf⟩ := s.fetch_cases
  · rw [hf] at h
    exact .inl ⟨hr, (Host.Outcome.next.inj h).symm⟩
  · rw [hf] at h
    exact .inr (.inl ⟨hr, hgo, h⟩)
  · rw [hf] at h
    obtain ⟨hst, he⟩ | ⟨hst, i, hd, he⟩ | ⟨_, _, _, he⟩ := s.engineFetch_cases <;> rw [he] at h
    · exact .inr (.inr (.inr ⟨hr, hgo, hst, (Host.Outcome.next.inj h).symm⟩))
    · exact .inr (.inr (.inl ⟨hr, hgo, hst, i, hd, h⟩))
    · cases h

/-- With nothing outside, a step of a machine that is not ACCUMULATING changes nothing (R183). -/
theorem step_of_quiet_of_not_accumulating {s : State} (hin : s.inbox = []) (hst : s.st ≠ .accumulating) :
    step s = .next s := by
  have hf : s.fetch = .idle := by
    obtain ⟨hr, _⟩ | ⟨_, hgo, _⟩ | ⟨_, _, hf⟩ := s.fetch_cases
    · rw [State.pins_of_quiet hin] at hr; cases hr
    · rw [State.pins_of_quiet hin] at hgo; exact absurd hgo (by decide)
    · obtain ⟨_, he⟩ | ⟨h, _⟩ | ⟨h, _⟩ := s.engineFetch_cases
      · exact hf.trans he
      · exact absurd h hst
      · exact absurd h hst
  simp [step, hf, State.boundary_of_quiet hin]

/-- From `s` to `t` the engine only goes on inside its block: it writes `V`, `W` and `UPC`, and `UPC` with a legal
position. WLD, WEX, VINIT and RND do this. -/
structure WithinBlock (s t : State) : Prop where
  h : t.h = s.h
  mlen : t.mlen = s.mlen
  bidx : t.bidx = s.bidx
  st : t.st = s.st
  fcause : t.fcause = s.fcause
  msg : t.msg = s.msg
  upc_legal : legalWord t.upc = true

/-- An operation of the engine stays inside its block or is ACC. -/
theorem exec_engine_cases {i : Instr} {s t : State} (hi : ∀ n, i ≠ .start n) (h : exec i s = .next t) :
    WithinBlock s t ∨ (i = .acc ∧ execAcc s = .next t) := by
  cases i with
  | start n => exact absurd rfl (hi n)
  | wld i =>
    obtain ⟨_, rfl⟩ := execWld_next h
    exact .inl ⟨rfl, rfl, rfl, rfl, rfl, rfl, legalWord_afterWld i⟩
  | wex i =>
    obtain ⟨hi, rfl⟩ := execWex_next h
    exact .inl ⟨rfl, rfl, rfl, rfl, rfl, rfl, legalWord_afterWex hi⟩
  | vinit =>
    obtain rfl := execVinit_next h
    exact .inl ⟨rfl, rfl, rfl, rfl, rfl, rfl, legalWord_rnd 0⟩
  | rnd i =>
    obtain rfl := execRnd_next h
    exact .inl ⟨rfl, rfl, rfl, rfl, rfl, rfl, legalWord_afterRnd i⟩
  | acc => exact .inr ⟨rfl, h⟩

/-- The operation the running engine executes, by the word in `UPC`. -/
theorem exec_decoded_cases {w : ControlWord} {i : Instr} {s t : State} (hd : decodeControl w = .ok i)
    (h : exec i s = .next t) : WithinBlock s t ∨ (w = 0x100#9 ∧ execAcc s = .next t) := by
  have hi : ∀ n, i ≠ .start n := fun n hn => decodeControl_ne_start w n (hn ▸ hd)
  obtain hb | ⟨rfl, ha⟩ := exec_engine_cases hi h
  · exact .inl hb
  · exact .inr ⟨(Encoded.control.inj (decodeControl_ok hd).2).symm, ha⟩

end Sys2Proof.Machine
end

section
/-! The invariant holds at reset, and every event of a step keeps it (10_state.md R15 to R19, 43_compression.md R164,
60_exceptions.md R202). -/

namespace Sys2Proof.Machine

/-- What the outside does at a boundary before anything else happens keeps the invariant. -/
theorem Inv.boundary {s : State} (hs : Inv s) : Inv s.boundary where
  msg_wf := State.boundary_wf hs.msg_wf
  cause := hs.cause
  upc_legal := hs.upc_legal
  running := hs.running
  finished := hs.finished
  refused := hs.refused

/-- A reset event needs no more than a canonical message space. -/
theorem Inv.resetEvent {s : State} (hs : Inv s) : Inv s.resetEvent where
  msg_wf := hs.msg_wf
  cause := by simp
  upc_legal := by simp
  running := by simp
  finished := by simp
  refused := by simp

/-- Taking the one fault. -/
theorem Inv.takeInputTooLarge {s : State} {n : Length} (hs : Inv s) (hn : lengthLimit ≤ n.toNat) :
    Inv (s.takeInputTooLarge n) where
  msg_wf := hs.msg_wf
  cause := by simp
  upc_legal := by simp
  running := by simp
  finished := by simp
  refused := by simpa using hn

/-- Beginning a run: `FCAUSE` is kept, so it matters that the machine was not FAULTED. -/
theorem Inv.beginRun {s : State} {n : Length} (hs : Inv s) (hst : s.st ≠ .faulted) (hn : n.toNat < lengthLimit) :
    Inv (s.beginRun n) where
  msg_wf := hs.msg_wf
  cause := by simpa using mt hs.cause.mp hst
  upc_legal := fun _ => legalWord_wld (by decide)
  running := fun _ => ⟨hn, Nat.succ_pos _⟩
  finished := by simp
  refused := by simp

/-- A presented START, accepted or ignored. -/
theorem Inv.execStart {s t : State} {n : Length} (hs : Inv s) (h : execStart n s = .next t) : Inv t := by
  obtain ⟨_, hn, rfl⟩ | ⟨hacc, hn, rfl⟩ | ⟨_, rfl⟩ := execStart_next h
  · exact hs.takeInputTooLarge (tooLarge_iff.mp hn)
  · refine hs.beginRun (fun hst => ?_) (tooLarge_false_iff.mp hn)
    simp [hst, Status.accepts] at hacc
  · exact hs

/-- Going on inside a block. -/
theorem Inv.withinBlock {s t : State} (hs : Inv s) (h : WithinBlock s t) : Inv t where
  msg_wf := h.msg ▸ hs.msg_wf
  cause := by rw [h.fcause, h.st]; exact hs.cause
  upc_legal := fun _ => h.upc_legal
  running := by rw [h.st, h.mlen, h.bidx]; exact hs.running
  finished := by rw [h.st, h.mlen, h.bidx]; exact hs.finished
  refused := by rw [h.st, h.mlen]; exact hs.refused

/-- While a block is left of a length that fits, ACC's count does not wrap (R16). -/
theorem State.bidx_succ_toNat {s : State} (hlen : s.mlen.toNat < lengthLimit)
    (hlt : s.bidx.toNat < nblk s.mlen.toNat) : (s.bidx + 1).toNat = s.bidx.toNat + 1 := by
  have hle : nblk s.mlen.toNat ≤ 2 ^ 55 + 1 := nblk_le hlen
  exact BitVec.toNat_add_of_lt (by simp; omega)

/-- ACC in ACCUMULATING: after the last block every block is consumed, before it a block is left. -/
theorem Inv.execAcc {s t : State} (hs : Inv s) (hst : s.st = .accumulating) (h : execAcc s = .next t) : Inv t := by
  obtain ⟨hlen, hlt⟩ := hs.running hst
  have hcause : s.fcause ≠ .inputTooLarge := fun hc => by cases hst ▸ hs.cause.mp hc
  have hsucc := State.bidx_succ_toNat hlen hlt
  obtain ⟨hlast, rfl⟩ | ⟨hlast, rfl⟩ := execAcc_next h
  · have hlast' := State.lastBlock_iff.mp hlast
    exact {
      msg_wf := hs.msg_wf
      cause := by simpa using hcause
      upc_legal := by simp
      running := by simp
      finished := fun _ => ⟨hlen, hsucc.trans hlast'⟩
      refused := by simp }
  · have hlast' := State.lastBlock_false_iff.mp hlast
    have hleft : (s.bidx + 1).toNat < nblk s.mlen.toNat := by omega
    exact {
      msg_wf := hs.msg_wf
      cause := hs.cause
      upc_legal := fun _ => legalWord_wld (by decide)
      running := fun _ => ⟨hlen, hleft⟩
      finished := by simp [hst]
      refused := by simp [hst] }

/-- Every step keeps the invariant, whatever the host and the reset input do. -/
theorem Inv.step {s t : State} (hs : Inv s) (h : step s = .next t) : Inv t := by
  obtain ⟨_, rfl⟩ | ⟨_, _, hx⟩ | ⟨_, _, hst, i, hd, hx⟩ | ⟨_, _, _, rfl⟩ := step_cases h
  · exact hs.boundary.resetEvent
  · exact hs.boundary.execStart hx
  · obtain hb | ⟨_, ha⟩ := exec_decoded_cases hd hx
    · exact hs.boundary.withinBlock hb
    · exact hs.boundary.execAcc hst ha
  · exact hs.boundary

/-- The invariant at reset. -/
theorem Inv.reset : Inv State.reset where
  msg_wf := State.reset_msg_wf
  cause := by decide
  upc_legal := by decide
  running := by decide
  finished := by decide
  refused := by decide

end Sys2Proof.Machine

namespace Sys2Proof.Proofs

open Sys2Proof.Machine

/-- Settles O41: each event of a step keeps the invariant, by the case split of `step_cases`. -/
theorem stepKeepsTheInvariant : Obligations.StepKeepsTheInvariant := fun _ _ => Inv.step

/-- Settles O40. -/
theorem invariantAtReset : Obligations.InvariantAtReset := Inv.reset

/-- Settles O39: the status and cause at reset, and R183 for a machine that is not running with nothing outside. -/
theorem resetValues : Obligations.ResetValues :=
  ⟨rfl, rfl, rfl, rfl, rfl, rfl, step_of_quiet_of_not_accumulating rfl (by decide)⟩

end Sys2Proof.Proofs
end

section
/-! What changes the hash state (10_state.md R11, 43_compression.md R165). -/

namespace Sys2Proof.Machine

/-- A START that changes `H` was accepted and begins a run. -/
theorem execStart_changes_hash {n : Length} {s t : State} (h : execStart n s = .next t) (hne : t.h ≠ s.h) :
    s.st.accepts = true ∧ t.h = romIV ∧ t.st = .accumulating := by
  obtain ⟨_, _, rfl⟩ | ⟨hacc, _, rfl⟩ | ⟨_, rfl⟩ := execStart_next h
  · exact absurd rfl hne
  · exact ⟨hacc, rfl, rfl⟩
  · exact absurd rfl hne

/-- ACC adds `V` to `H`, on the last block and before it. -/
theorem execAcc_hash {s t : State} (h : execAcc s = .next t) (j : Fin 8) : t.h[j] = s.h[j] + s.v[j] := by
  have ht : t.h = s.sumHV := by obtain ⟨_, rfl⟩ | ⟨_, rfl⟩ := execAcc_next h <;> rfl
  rw [ht, State.sumHV_getElem]

end Sys2Proof.Machine

namespace Sys2Proof.Proofs

open Sys2Proof.Machine

/-- Settles O45: of the events of a step without reset, only an accepted START and ACC write `H`. -/
theorem onlyStartAndAccChangeTheHash : Obligations.OnlyStartAndAccChangeTheHash := by
  intro s t h hr hne
  obtain ⟨hr', _⟩ | ⟨_, hgo, hx⟩ | ⟨_, hgo, hst, i, hd, hx⟩ | ⟨_, _, _, rfl⟩ := step_cases h
  · exact absurd hr' (ne_true_of_eq_false hr)
  · obtain ⟨hacc, hiv, hrun⟩ := execStart_changes_hash hx hne
    exact .inl ⟨Status.accepts_iff.mp hacc, hgo, hiv, hrun⟩
  · obtain hb | ⟨hupc, ha⟩ := exec_decoded_cases hd hx
    · exact absurd hb.h hne
    · exact .inr ⟨hst, hgo, hupc, execAcc_hash (s := s.boundary) ha⟩
  · exact absurd rfl hne

end Sys2Proof.Proofs
end

section
/-! What the host sees at the ports (10_state.md R18, R19, R25, 44_control.md R191, R192). -/

namespace Sys2Proof.Machine

/-- Outside FINALIZED a read of `DIGEST` is a draw, whatever the registers hold (R191, log 5). -/
theorem State.digestPort_of_not_finalized {s : State} (h : s.st ≠ .finalized) (r : Nat) :
    s.digestPort r = (List.range 32).map (Config.digestDraw r) := by
  simp [State.digestPort, State.done, h]

/-- What the host reads of the control registers is settled by `ST` and `FCAUSE` (R25). -/
theorem State.hostReads_congr {s s' : State} (hst : s.st = s'.st) (hfc : s.fcause = s'.fcause) (c : ControlReg) :
    s.hostReads c = s'.hostReads c := by
  cases c with
  | st => exact congrArg (fun x => some x.code) hst
  | fcause => exact congrArg (fun x => some x.code) hfc
  | mlen => rfl
  | bidx => rfl
  | upc => rfl

/-- The code of ACCUMULATING is its own (R18). -/
theorem Status.code_eq_one_iff {x : Status} : x.code = 1#2 ↔ x = .accumulating := by
  cases x <;> decide

/-- The code of FINALIZED is its own (R18). -/
theorem Status.code_eq_two_iff {x : Status} : x.code = 2#2 ↔ x = .finalized := by
  cases x <;> decide

end Sys2Proof.Machine

namespace Sys2Proof.Proofs

open Sys2Proof.Machine

/-- Settles O54: outside FINALIZED no port is a function of anything but `ST`, `FCAUSE` and the read number. -/
theorem nothingElseIsVisible : Obligations.NothingElseIsVisible := by
  intro s s' hst hfc hnf
  refine ⟨fun r => ?_, State.hostReads_congr hst hfc, by simp [State.busy, hst], by simp [State.done, hst]⟩
  rw [State.digestPort_of_not_finalized hnf, State.digestPort_of_not_finalized (hst ▸ hnf)]
  simp

/-- Settles O56: the levels are read off the status code, since no two values of `ST` share one. -/
theorem portCodes : Obligations.PortCodes :=
  ⟨rfl, rfl, rfl, rfl, rfl, rfl, fun _ =>
    ⟨decide_eq_true_iff.trans Status.code_eq_one_iff.symm, decide_eq_true_iff.trans Status.code_eq_two_iff.symm,
      rfl, rfl, rfl, rfl, rfl⟩⟩

end Sys2Proof.Proofs
end

section
/-! The constant tables against the formula that defines them (10_state.md R20, R21, log 1). -/

namespace Sys2Proof.Machine

/-- The primes that trial division leaves up to 311. The kernel alone evaluates the sieve: it is too deep for the
elaborator's own evaluation. -/
theorem firstPrimes_eq : firstPrimes =
    [2, 3, 5, 7, 11, 13, 17, 19, 23, 29, 31, 37, 41, 43, 47, 53,
     59, 61, 67, 71, 73, 79, 83, 89, 97, 101, 103, 107, 109, 113, 127, 131,
     137, 139, 149, 151, 157, 163, 167, 173, 179, 181, 191, 193, 197, 199, 211, 223,
     227, 229, 233, 239, 241, 251, 257, 263, 269, 271, 277, 281, 283, 293, 307, 311] := by
  decide +kernel

end Sys2Proof.Machine

namespace Sys2Proof.Proofs

open Sys2Proof.Machine

/-- Settles O13: with the primes written out, each entry of the two tables is checked against its two inequalities. -/
theorem constantsAreRootFractions : Obligations.ConstantsAreRootFractions := by
  unfold Obligations.ConstantsAreRootFractions
  rw [firstPrimes_eq]
  refine ⟨rfl, ?_, ?_⟩
  · decide
  · decide

end Sys2Proof.Proofs
end

section
/-! The message space (20_memory.md R40, R42): reading after placing a byte, and the canonical form read back. -/

namespace Sys2Proof.Machine

/-- What a canonical list that is not empty says of its first entry and of the rest. -/
theorem Memory.wfFrom_cons_iff {lo a : Nat} {b : Byte} {m : List Host.Cell} :
    Memory.wfFrom lo ((a, b) :: m) = true ↔
      lo ≤ a ∧ a < 2 ^ 61 ∧ b ≠ Memory.unlisted ∧ Memory.wfFrom (a + 1) m = true := by
  simp only [Memory.wfFrom, Bool.and_eq_true, decide_eq_true_eq, and_assoc]

/-- Reading a list that is not empty. -/
theorem Memory.read_cons (a j : Nat) (b : Byte) (m : List Host.Cell) :
    Memory.read ((a, b) :: m) j = if j = a then b else Memory.read m j := by
  simp only [Memory.read, eq_comm]

/-- In front of a list without the index the cells of one byte read as that byte, whether or not it is listed. -/
theorem Memory.read_cell_append_of_unlisted {j : Nat} {m : List Host.Cell} (h : Memory.read m j = Memory.unlisted)
    (k : Nat) (b : Byte) : Memory.read (Memory.cell j b ++ m) k = if k = j then b else Memory.read m k := by
  rw [Memory.read_cell_append]
  by_cases hb : b = Memory.unlisted
  · subst hb
    split_ifs <;> simp_all
  · simp [hb]

/-- Read after write, in a list canonical from any address on. -/
theorem Memory.read_write {lo : Nat} {m : List Host.Cell} (h : Memory.wfFrom lo m = true) (j k : Nat) (b : Byte) :
    Memory.read (Memory.write m j b) k = if k = j then b else Memory.read m k := by
  induction m generalizing lo with
  | nil => simpa [Memory.write] using Memory.read_cell_append_of_unlisted (m := []) rfl k b
  | cons c rest ih =>
    obtain ⟨a, d⟩ := c
    obtain ⟨_, ha, hd, hrest⟩ := Memory.wfFrom_cons_iff.mp h
    obtain hlt | rfl | hgt := Nat.lt_trichotomy j a
    · have hfrom : Memory.wfFrom a ((a, d) :: rest) = true := Memory.wfFrom_cons_iff.mpr ⟨le_rfl, ha, hd, hrest⟩
      rw [Memory.write, if_pos hlt]
      exact Memory.read_cell_append_of_unlisted (Memory.read_below hfrom hlt) k b
    · rw [Memory.write, if_neg (Nat.lt_irrefl j), if_pos rfl, Memory.read_cons,
        Memory.read_cell_append_of_unlisted (Memory.read_below hrest (Nat.lt_succ_self j))]
      split_ifs <;> rfl
    · rw [Memory.write, if_neg (by omega), if_neg (by omega), Memory.read_cons, Memory.read_cons, ih hrest]
      by_cases hk : k = a
      · rw [if_pos hk, if_pos hk, if_neg (by omega)]
      · rw [if_neg hk, if_neg hk]

/-- Of two canonical lists that read alike, the first entry of one does not lie below that of the other. -/
theorem Memory.head_le_of_read_eq {lo a a' : Nat} {b b' : Byte} {m m' : List Host.Cell}
    (h : Memory.wfFrom lo ((a, b) :: m) = true) (h' : Memory.wfFrom lo ((a', b') :: m') = true)
    (heq : ∀ j, Memory.read ((a, b) :: m) j = Memory.read ((a', b') :: m') j) : a' ≤ a := by
  obtain ⟨_, _, hb, _⟩ := Memory.wfFrom_cons_iff.mp h
  obtain ⟨_, hrest'⟩ := Memory.wfFrom_cons_iff.mp h'
  by_contra hlt
  have hfrom' : Memory.wfFrom a' ((a', b') :: m') = true := Memory.wfFrom_cons_iff.mpr ⟨le_rfl, hrest'⟩
  refine hb ?_
  calc b = Memory.read ((a, b) :: m) a := by rw [Memory.read_cons, if_pos rfl]
    _ = Memory.read ((a', b') :: m') a := heq a
    _ = Memory.unlisted := Memory.read_below hfrom' (Nat.lt_of_not_le hlt)

/-- A list canonical from an address on that reads as nothing placed is empty. -/
theorem Memory.eq_nil_of_read_eq {lo : Nat} {m : List Host.Cell} (h : Memory.wfFrom lo m = true)
    (heq : ∀ j, Memory.read m j = Memory.unlisted) : m = [] := by
  cases m with
  | nil => rfl
  | cons c rest =>
    obtain ⟨a, b⟩ := c
    obtain ⟨_, _, hb, _⟩ := Memory.wfFrom_cons_iff.mp h
    have hread := heq a
    rw [Memory.read_cons, if_pos rfl] at hread
    exact absurd hread hb

/-- Lists canonical from one address on are settled by what they read as. -/
theorem Memory.eq_of_read_eq {lo : Nat} {m m' : List Host.Cell} (h : Memory.wfFrom lo m = true)
    (h' : Memory.wfFrom lo m' = true) (heq : ∀ j, Memory.read m j = Memory.read m' j) : m = m' := by
  induction m generalizing lo m' with
  | nil => exact (Memory.eq_nil_of_read_eq h' fun j => (heq j).symm).symm
  | cons c rest ih =>
    obtain _ | ⟨c', rest'⟩ := m'
    · exact Memory.eq_nil_of_read_eq h heq
    · obtain ⟨a, b⟩ := c
      obtain ⟨a', b'⟩ := c'
      obtain rfl : a = a' := Nat.le_antisymm (Memory.head_le_of_read_eq h' h fun j => (heq j).symm)
        (Memory.head_le_of_read_eq h h' heq)
      obtain ⟨_, _, _, hrest⟩ := Memory.wfFrom_cons_iff.mp h
      obtain ⟨_, _, _, hrest'⟩ := Memory.wfFrom_cons_iff.mp h'
      simp only [Memory.read_cons] at heq
      obtain rfl : b = b' := by simpa using heq a
      have htail : ∀ j, Memory.read rest j = Memory.read rest' j := fun j => by
        by_cases hj : j = a
        · rw [Memory.read_below hrest (by omega), Memory.read_below hrest' (by omega)]
        · simpa [hj] using heq j
      rw [ih hrest hrest' htail]

/-- No operation writes `MSG` (R41). -/
theorem exec_msg {i : Instr} {s t : State} (h : exec i s = .next t) : t.msg = s.msg := by
  by_cases hi : ∃ n, i = .start n
  · obtain ⟨n, rfl⟩ := hi
    obtain ⟨_, _, rfl⟩ | ⟨_, _, rfl⟩ | ⟨_, rfl⟩ := execStart_next h <;> rfl
  · obtain hb | ⟨_, ha⟩ := exec_engine_cases (fun n hn => hi ⟨n, hn⟩) h
    · exact hb.msg
    · obtain ⟨_, rfl⟩ | ⟨_, rfl⟩ := execAcc_next ha <;> rfl

end Sys2Proof.Machine

namespace Sys2Proof.Proofs

open Sys2Proof.Machine

/-- Settles O18, by induction on the list of cells: the byte goes in front of, in place of, or behind the first one. -/
theorem placedByteIsRead : Obligations.PlacedByteIsRead := fun _ j k b h => Memory.read_write h j k b

/-- Settles O19: lists that read alike have the same first entry, and tails that read alike. -/
theorem equalReadsEqualMemories : Obligations.EqualReadsEqualMemories := fun _ _ => Memory.eq_of_read_eq

/-- Settles O33: the operation of a step leaves `MSG` as the boundary made it, and so does every other event. -/
theorem engineWritesNoMemory : Obligations.EngineWritesNoMemory := by
  refine ⟨fun _ _ _ => exec_msg, fun s t h => ?_⟩
  obtain ⟨_, rfl⟩ | ⟨i, _, hx⟩ | ⟨_, rfl⟩ := step_next h
  · rfl
  · exact exec_msg hx
  · rfl

end Sys2Proof.Proofs
end

section
/-! The control flow of an undisturbed run, one operation after the other, and the message bytes it reads
(20_memory.md R50, 44_control.md R184, R185). -/

namespace Sys2Proof

open Machine

/-- The position the sequencer goes to after an operation that has a single one (R184). -/
def Instr.successor (i : Instr) : Option ControlWord :=
  match i with
  | .start _ => none
  | .wld ix => some (afterWld ix)
  | .wex ix => some (afterWex ix)
  | .vinit => some afterVinit
  | .rnd ix => some (afterRnd ix)
  | .acc => none

/-- After `i` the sequencer goes to a position that stands for `j`, whatever the state (R184). -/
abbrev Instr.LeadsTo (i j : Instr) : Prop := i.successor.map decodeControl = some (.ok j)

/-- The bytes of its block an operation takes, by their place in the block (R150). -/
def Instr.blockOffsets (i : Instr) : List Nat :=
  match i with
  | .start _ => []
  | .wld ix => [4 * ix.toNat, 4 * ix.toNat + 1, 4 * ix.toNat + 2, 4 * ix.toNat + 3]
  | .wex _ => []
  | .vinit => []
  | .rnd _ => []
  | .acc => []

namespace Machine

/-- Each operation of BLOCK but the last leads to the next one (R81, R184). The 130 operations are too many for the
elaborator's own evaluation, so the kernel alone evaluates them, here and below. -/
theorem blockOps_isChain : List.IsChain Instr.LeadsTo blockOps := by decide +kernel

/-- BLOCK takes the 64 bytes of its block, each once and in order (R46, R150). -/
theorem blockOps_flatMap_blockOffsets : blockOps.flatMap Instr.blockOffsets = List.range 64 := by decide +kernel

/-- The undisturbed engine is about to run operation `i` in block `b` of a message of `n` bytes. -/
structure AtOp (n b : Nat) (i : Instr) (s : State) : Prop where
  running : s.st = .accumulating
  undisturbed : s.inbox = []
  mlen : s.mlen.toNat = n
  bidx : s.bidx.toNat = b
  op : decodeControl s.upc = .ok i

/-- A machine right after START is about to run the first operation of block 0. -/
theorem Started.atOp {s : State} (h : Started s) : AtOp s.mlen.toNat 0 (.wld 0) s where
  running := h.status
  undisturbed := h.undisturbed
  mlen := rfl
  bidx := by rw [h.block]; rfl
  op := by rw [h.position]; decide

/-- With nothing outside, the engine's own fetch is what a boundary selects. -/
theorem State.fetch_of_undisturbed {s : State} (h : s.inbox = []) : s.fetch = s.engineFetch := by
  obtain ⟨hr, _⟩ | ⟨_, hgo, _⟩ | ⟨_, _, hf⟩ := s.fetch_cases
  · rw [State.pins_of_quiet h] at hr; cases hr
  · rw [State.pins_of_quiet h] at hgo; exact absurd hgo (by decide)
  · exact hf

/-- An operation with a single successor answers a state that differs in `V`, `W` and `UPC` at most, with `UPC` at the
successor. -/
theorem exec_of_successor {i : Instr} {u : ControlWord} (hi : i.wellFormed = true) (hu : i.successor = some u)
    (s : State) : ∃ v w, exec i s = .next { s with v := v, w := w, upc := u } := by
  cases i with
  | start n => cases hu
  | wld ix =>
    obtain rfl := Option.some.inj hu
    exact ⟨s.v, _, if_pos (of_decide_eq_true hi)⟩
  | wex ix =>
    obtain rfl := Option.some.inj hu
    exact ⟨s.v, _, if_pos (of_decide_eq_true hi)⟩
  | vinit =>
    obtain rfl := Option.some.inj hu
    exact ⟨s.h, s.w, rfl⟩
  | rnd ix =>
    obtain rfl := Option.some.inj hu
    exact ⟨s.roundV ix, s.w, rfl⟩
  | acc => cases hu

section
variable {n b : Nat} {i j : Instr} {s : State}

/-- The step runs the operation. -/
theorem AtOp.step_eq (h : AtOp n b i s) : step s = exec i s :=
  step_of_undisturbed h.undisturbed h.running h.op

/-- The boundary selects the operation. -/
theorem AtOp.fetch_eq (h : AtOp n b i s) : s.fetch = .run i := by
  simp [State.fetch_of_undisturbed h.undisturbed, State.engineFetch, h.running, h.op]

/-- The engine goes on to the next operation of the block. -/
theorem AtOp.after_of_leadsTo (h : AtOp n b i s) (hij : i.LeadsTo j) : AtOp n b j s.after := by
  obtain ⟨u, hu, hj⟩ := Option.map_eq_some_iff.mp hij
  obtain ⟨v, w, hx⟩ := exec_of_successor (decodeControl_ok h.op).1 hu s
  rw [State.after_of_step (h.step_eq.trans hx)]
  exact ⟨h.running, h.undisturbed, h.mlen, h.bidx, hj⟩

/-- ACC goes on to the next block, when there is one. -/
theorem AtOp.after_acc (h : AtOp n b .acc s) (hn : n < lengthLimit) (hb : b + 1 < nblk n) :
    AtOp n (b + 1) (.wld 0) s.after := by
  obtain ⟨hst, hin, rfl, rfl, hop⟩ := h
  have hlast : s.lastBlock = false := State.lastBlock_false_iff.mpr (by omega)
  have hx : execAcc s = .next (((s.writeH s.sumHV).writeBidx (s.bidx + 1)).writeUpc nextBlock) := by
    simp [execAcc, hlast]
  rw [State.after_of_step ((step_of_undisturbed hin hst hop).trans hx)]
  exact ⟨hst, hin, rfl, State.bidx_succ_toNat hn (by omega),
    show decodeControl nextBlock = .ok (.wld 0) by decide⟩

/-- The `MSG` indices the step reads: of the bytes the operation takes, those that lie in the message. -/
theorem AtOp.stepReads_eq (h : AtOp n b i s) :
    s.stepReads = (i.blockOffsets.map (64 * b + ·)).filter fun k => padSource n k = .message := by
  unfold State.stepReads
  rw [h.fetch_eq]
  cases i with
  | wld ix =>
    simp only [State.boundary_of_quiet h.undisturbed, State.wordReads, State.wordBase, Instr.blockOffsets, h.mlen,
      h.bidx, List.map_cons, List.map_nil, Nat.add_assoc]
  | start _ | wex _ | vinit | rnd _ | acc => rfl

/-- Along operations of which each leads to the next, the engine reaches the last. -/
theorem AtOp.after_chain {ops : List Instr} (h : AtOp n b i s) (hc : List.IsChain Instr.LeadsTo (i :: ops)) :
    AtOp n b ((i :: ops).getLast (List.cons_ne_nil i ops)) (State.after^[ops.length] s) := by
  induction ops generalizing i s with
  | nil => exact h
  | cons j ops ih =>
    obtain ⟨hij, hc⟩ := List.isChain_cons_cons.mp hc
    exact ih (h.after_of_leadsTo hij) hc

/-- Along operations of which each leads to the next, the reads are those of the bytes they take, one after the other. -/
theorem AtOp.readsRun_chain {ops : List Instr} (h : AtOp n b i s) (hc : List.IsChain Instr.LeadsTo (i :: ops)) :
    readsRun (i :: ops).length s =
      (((i :: ops).flatMap Instr.blockOffsets).map (64 * b + ·)).filter fun k => padSource n k = .message := by
  induction ops generalizing i s with
  | nil => simp [readsRun, h.stepReads_eq]
  | cons j ops ih =>
    obtain ⟨hij, hc⟩ := List.isChain_cons_cons.mp hc
    rw [List.length_cons, readsRun, h.stepReads_eq, ih (h.after_of_leadsTo hij) hc, List.flatMap_cons (x := i),
      List.map_append, List.filter_append]

/-- The reads of a block: of its 64 indices in order, those of the message. -/
theorem AtOp.readsRun_block (h : AtOp n b (.wld 0) s) :
    readsRun 130 s = ((List.range 64).map (64 * b + ·)).filter fun k => padSource n k = .message := by
  rw [← blockOps_flatMap_blockOffsets]
  exact h.readsRun_chain (ops := blockOps.tail) blockOps_isChain

/-- A block that is not the last brings the engine to the next one. -/
theorem AtOp.after_block (h : AtOp n b (.wld 0) s) (hn : n < lengthLimit) (hb : b + 1 < nblk n) :
    AtOp n (b + 1) (.wld 0) (State.after^[130] s) := by
  have hacc : AtOp n b .acc (State.after^[129] s) := h.after_chain (ops := blockOps.tail) blockOps_isChain
  rw [Function.iterate_succ_apply']
  exact hacc.after_acc hn hb

/-- Block by block: block `b` is reached after `130 b` steps. -/
theorem AtOp.after_blocks (h : AtOp n 0 (.wld 0) s) (hn : n < lengthLimit) (hb : b < nblk n) :
    AtOp n b (.wld 0) (State.after^[130 * b] s) := by
  induction b with
  | zero => exact h
  | succ b ih =>
    rw [Nat.mul_succ, Nat.add_comm (130 * b), Function.iterate_add_apply]
    exact (ih (by omega)).after_block hn hb

/-- The reads of the first `k` blocks: of their indices in order, those of the message. -/
theorem AtOp.readsRun_blocks {k : Nat} (h : AtOp n 0 (.wld 0) s) (hn : n < lengthLimit) (hk : k ≤ nblk n) :
    readsRun (130 * k) s = (List.range (64 * k)).filter fun j => padSource n j = .message := by
  induction k with
  | zero => rfl
  | succ k ih =>
    rw [Nat.mul_succ, readsRun_add, ih (by omega), (h.after_blocks hn hk).readsRun_block, Nat.mul_succ, List.range_add,
      List.filter_append]

end

/-- The padded message is longer than the message (R132). -/
theorem lt_plen (n : Nat) : n < plen n := by
  simp only [plen, nblk]; omega

/-- For a length that fits, the bytes the padder takes from `MSG` are those of the message (R133). -/
theorem padSource_eq_message_iff {n : Nat} (hn : n < lengthLimit) (j : Nat) : padSource n j = .message ↔ j < n := by
  have := lt_plen n
  unfold padSource
  split_ifs <;> simp <;> omega

/-- Of the indices of a longer range, those below `n` are the range of `n`. -/
theorem range_filter_lt {n m : Nat} (h : n ≤ m) : (List.range m).filter (fun j => j < n) = List.range n := by
  obtain ⟨d, rfl⟩ := Nat.exists_eq_add_of_le h
  have hlow : (List.range n).filter (fun j => j < n) = List.range n := by simp
  have hhigh : ((List.range d).map (n + ·)).filter (fun j => j < n) = [] := by simp
  rw [List.range_add, List.filter_append, hlow, hhigh, List.append_nil]

end Machine
end Sys2Proof

namespace Sys2Proof.Proofs

open Sys2Proof.Machine

/-- Settles O49: the blocks take the indices of the padded message in order, and those read are the ones below `MLEN`. -/
theorem eachMessageByteReadOnceInOrder : Obligations.EachMessageByteReadOnceInOrder := by
  intro s hs
  have hle : s.mlen.toNat ≤ 64 * nblk s.mlen.toNat := (lt_plen _).le
  simp only [hs.atOp.readsRun_blocks hs.length le_rfl, padSource_eq_message_iff hs.length, range_filter_lt hle]

end Sys2Proof.Proofs
end

section
/-! The decoder and the encoder are inverse to each other, and which control words are left without a meaning
(30_encoding.md R74 to R79). -/

namespace Sys2Proof

/-- Two bit vectors in a row as a number. -/
theorem toNat_append_eq_add {m n : Nat} (x : BitVec m) (y : BitVec n) :
    (x ++ y).toNat = x.toNat * 2 ^ n + y.toNat := by
  rw [BitVec.toNat_append, ← Nat.shiftLeft_add_eq_or_of_lt y.isLt, Nat.shiftLeft_eq]

/-- A control word as a number, as 44_control.md R184 writes it: `PH` in front of the six bits of `IX` (R74). -/
theorem controlWord_eq_ofNat (ph : BitVec 3) (ix : Index) :
    controlWord ph ix = BitVec.ofNat 9 (ph.toNat * 2 ^ 6 + ix.toNat) := by
  rw [← toNat_append_eq_add ph ix, BitVec.ofNat_toNat, BitVec.setWidth_eq, controlWord]

/-- A command word with `go` = 1 is START (R75). -/
theorem decodeCommand_of_go {w : CommandWord} (h : goOf w = true) : decodeCommand w = .ok (.start (lengthOf w)) :=
  if_pos h

/-- A command word with `go` = 0 is no command (R78). -/
theorem decodeCommand_of_no_go {w : CommandWord} (h : goOf w = false) : decodeCommand w = .error .noCommand :=
  if_neg (ne_true_of_eq_false h)

/-- A command word with a meaning is the encoding of that START (R75, R78). -/
theorem decodeCommand_ok {w : CommandWord} {i : Instr} (h : decodeCommand w = .ok i) :
    i.wellFormed = true ∧ encode i = .command w := by
  cases hgo : goOf w with
  | true =>
    obtain rfl : .start (lengthOf w) = i := Except.ok.inj ((decodeCommand_of_go hgo).symm.trans h)
    have hw := commandWord_fields w
    rw [hgo] at hw
    exact ⟨rfl, congrArg Encoded.command hw⟩
  | false => cases (decodeCommand_of_no_go hgo).symm.trans h

/-- Decoding gives back every well-formed operation: `PH` selects its branch, and the branch's test of `IX` is the
operation's own range. -/
theorem decode_encode {i : Instr} (hi : i.wellFormed = true) : decode (encode i) = .ok i := by
  cases i with
  | start n => simp [encode, decode, decodeCommand]
  | wld ix =>
    have hix : ix < 16#6 := of_decide_eq_true hi
    simp [encode, decode, decodeControl, hix]
  | wex ix =>
    have hix : 16#6 ≤ ix := of_decide_eq_true hi
    simp [encode, decode, decodeControl, hix, phWld, phWex]
  | vinit => rfl
  | rnd ix => simp [encode, decode, decodeControl, phWld, phWex, phVinit, phRnd]
  | acc => rfl

/-- A word with a meaning, on either path, is the encoding of its operation. -/
theorem encode_of_decode {e : Encoded} {i : Instr} (h : decode e = .ok i) : i.wellFormed = true ∧ encode i = e := by
  cases e with
  | command w => exact decodeCommand_ok h
  | control w => exact decodeControl_ok h

namespace Machine

/-- A control word is reserved exactly when the decoder rejects it. -/
theorem legalWord_eq_false_iff {w : ControlWord} : legalWord w = false ↔ ∃ r, decodeControl w = .error r := by
  unfold legalWord
  cases decodeControl w <;> simp

/-- The five classes of reserved control words (R77): each is one rejecting branch of the decoder. -/
theorem legalWord_eq_false_iff_fields (w : ControlWord) : legalWord w = false ↔
    (5#3 ≤ phaseOf w ∨ (phaseOf w = 0#3 ∧ 16#6 ≤ indexOf w) ∨ (phaseOf w = 1#3 ∧ indexOf w < 16#6) ∨
      (phaseOf w = 2#3 ∧ indexOf w ≠ 0#6) ∨ (phaseOf w = 4#3 ∧ indexOf w ≠ 0#6)) := by
  rw [legalWord_eq_false_iff]
  unfold decodeControl phWld phWex phVinit phRnd phAcc
  generalize phaseOf w = ph
  generalize indexOf w = ix
  split_ifs <;> simp <;> bv_omega

/-- There are 382 reserved control words (R77): 48, 16, 63 and 63 by their index, 192 by their phase. The kernel alone
evaluates the 512 words: they are too many for the elaborator's own evaluation. -/
theorem reservedWords_length : ((List.range 512).filter fun n => !legalWord (BitVec.ofNat 9 n)).length = 382 := by
  decide +kernel

/-- A running engine with nothing outside refuses a reserved control word in `UPC` (log 13). -/
theorem step_of_reserved {s : State} (hst : s.st = .accumulating) (hin : s.inbox = [])
    (hw : legalWord s.upc = false) : step s = .refused (.reservedControlWord s.upc) := by
  obtain ⟨r, hr⟩ := legalWord_eq_false_iff.mp hw
  have hf : s.fetch = .reserved s.upc := by
    simp [State.fetch_of_undisturbed hin, State.engineFetch, hst, hr]
  simp [step, hf]

/-- Only a running engine with a reserved control word in `UPC` fetches one. -/
theorem State.fetch_eq_reserved {s : State} {w : ControlWord} (h : s.fetch = .reserved w) :
    s.st = .accumulating ∧ legalWord s.upc = false := by
  obtain ⟨_, hf⟩ | ⟨_, _, hf⟩ | ⟨_, _, hf⟩ := s.fetch_cases
  · cases hf.symm.trans h
  · cases hf.symm.trans h
  · obtain ⟨_, he⟩ | ⟨_, _, _, he⟩ | ⟨hst, r, hr, _⟩ := s.engineFetch_cases
    · cases (hf.trans he).symm.trans h
    · cases (hf.trans he).symm.trans h
    · exact ⟨hst, legalWord_eq_false_iff.mpr ⟨r, hr⟩⟩

/-- A state of the invariant never fetches a reserved control word. -/
theorem Inv.fetch_ne_reserved {s : State} (hs : Inv s) (w : ControlWord) : s.fetch ≠ .reserved w := fun h => by
  obtain ⟨hst, hw⟩ := State.fetch_eq_reserved h
  exact absurd (hs.upc_legal hst) (ne_true_of_eq_false hw)

/-- What a boundary selects is the same for any two command words with `go` = 0 (R78). -/
theorem State.fetch_of_no_go {s : State} {r : Bool} {c c' : CommandWord} {p : List (MsgIndex × Byte)}
    {rest : List HostInput} (hc : goOf c = false) (hc' : goOf c' = false) :
    State.fetch { s with inbox := ⟨r, c, p⟩ :: rest } = State.fetch { s with inbox := ⟨r, c', p⟩ :: rest } := by
  simp only [State.fetch, State.pins, List.headD_cons, decodeCommand_of_no_go hc, decodeCommand_of_no_go hc']
  rfl

end Machine
end Sys2Proof

namespace Sys2Proof.Proofs

open Sys2Proof.Machine

/-- Settles O1, operation by operation: every field an encoding writes is read back. -/
theorem decodeInvertsEncode : Obligations.DecodeInvertsEncode := fun _ => decode_encode

/-- Settles O2, on each of the two paths: a word is its fields, and the decoder's tests fix those it does not keep. -/
theorem meaningfulWordIsItsEncoding : Obligations.MeaningfulWordIsItsEncoding := fun _ _ => encode_of_decode

/-- Settles O3: the reserved words are the decoder's rejected branches, and the invariant keeps `UPC` out of them. -/
theorem reservedWordsAreRefusedAndNeverOccur : Obligations.ReservedWordsAreRefusedAndNeverOccur :=
  ⟨legalWord_eq_false_iff_fields, reservedWords_length, fun _ => legalWord_eq_false_iff.mp,
    fun _ => step_of_reserved, fun _ w hs => hs.fetch_ne_reserved w⟩

/-- Settles O4, by running the decoder on the eleven words. -/
theorem writtenOutWordsDecode : Obligations.WrittenOutWordsDecode := by
  unfold Obligations.WrittenOutWordsDecode
  decide

/-- Settles O5: neither what the boundary selects nor what it leaves behind depends on `n`. -/
theorem wordWithoutGoCausesNothing : Obligations.WordWithoutGoCausesNothing := by
  intro s r n p rest
  have hfetch := State.fetch_of_no_go (s := s) (r := r) (p := p) (rest := rest)
    (goOf_commandWord 0#1 n) (c' := 0#65) (by decide)
  simp only [step, hfetch]
  rfl

/-- Settles O28: the range test of each meaning fails, and the word it refuses is written as its number. -/
theorem indexOutsideRangeIsRefused : Obligations.IndexOutsideRangeIsRefused := by
  refine ⟨fun i s hi => ?_, fun i s hi => ?_⟩
  · have hge : ¬ i < 16#6 := by bv_omega
    have hw : controlWord phWld i = BitVec.ofNat 9 i.toNat := by simp [controlWord_eq_ofNat, phWld]
    simp [exec, execWld, hge, hw]
  · have hlt : ¬ 16#6 ≤ i := by bv_omega
    have hw : controlWord phWex i = BitVec.ofNat 9 (0x040 + i.toNat) := by simp [controlWord_eq_ofNat, phWex]
    simp [exec, execWex, hlt, hw]

end Sys2Proof.Proofs
end

section
/-! The data formats (30_encoding.md R70, R71): `BE32` and its inverse, the words WLD makes of the bytes of a block, and
the length field at the end of the padded message. -/

namespace Sys2Proof.Machine

/-- The value of a big-endian word (R70). -/
theorem be32_toNat (b0 b1 b2 b3 : Byte) :
    (be32 b0 b1 b2 b3).toNat = b0.toNat * 2 ^ 24 + b1.toNat * 2 ^ 16 + b2.toNat * 2 ^ 8 + b3.toNat := by
  simp only [be32, toNat_append_eq_add]
  omega

/-- The value of a byte of a word (R70). -/
theorem beByte_toNat (x : Word) (k : Fin 4) : (beByte x k).toNat = x.toNat / 2 ^ (8 * (3 - k.val)) % 256 := by
  rw [beByte, BitVec.extractLsb'_toNat, Nat.shiftRight_eq_div_pow]

/-- The bytes of a big-endian word are those it was made of. -/
theorem beByte_be32 (b0 b1 b2 b3 : Byte) (k : Fin 4) : beByte (be32 b0 b1 b2 b3) k = #v[b0, b1, b2, b3][k] := by
  apply BitVec.eq_of_toNat_eq
  rw [beByte_toNat, be32_toNat]
  fin_cases k <;> simp <;> omega

/-- The four bytes of a word make it again. -/
theorem be32_beByte (x : Word) : be32 (beByte x 0) (beByte x 1) (beByte x 2) (beByte x 3) = x := by
  apply BitVec.eq_of_toNat_eq
  rw [be32_toNat, beByte_toNat, beByte_toNat, beByte_toNat, beByte_toNat]
  simp
  omega

/-- `WLD i` completes for an index in its range and makes `W[i]` the word of the block's bytes (R150). -/
theorem execWld_readW {i : Index} (hi : i < 16#6) (s : State) :
    ∃ t, exec (.wld i) s = .next t ∧ t.readW i = s.blockWord i :=
  ⟨_, if_pos hi, State.readW_writeW_self s i (s.blockWord i)⟩

/-- A byte of a 64-bit value by division (R71). -/
theorem be64Byte_eq (v k : Nat) : be64Byte v k = BitVec.ofNat 8 (v / 2 ^ (8 * (7 - k)) % 256) := by
  apply BitVec.eq_of_toNat_eq
  simp [be64Byte, Nat.shiftRight_eq_div_pow]

/-- The value of a byte of a 64-bit value (R71). -/
theorem be64Byte_toNat (v k : Nat) : (be64Byte v k).toNat = v / 2 ^ (8 * (7 - k)) % 256 := by
  simp [be64Byte_eq]

/-- The first four bytes of a 64-bit value are its high word. -/
theorem be32_be64Byte_high {v : Nat} (hv : v < 2 ^ 64) :
    (be32 (be64Byte v 0) (be64Byte v 1) (be64Byte v 2) (be64Byte v 3)).toNat = v / 2 ^ 32 := by
  simp only [be32_toNat, be64Byte_toNat]
  omega

/-- The last four bytes of a 64-bit value are its low word. -/
theorem be32_be64Byte_low (v : Nat) :
    (be32 (be64Byte v 4) (be64Byte v 5) (be64Byte v 6) (be64Byte v 7)).toNat = v % 2 ^ 32 := by
  simp only [be32_toNat, be64Byte_toNat]
  omega

/-- The last eight bytes of the padded message are those of the bit length (R71, R133). -/
theorem State.padByte_lengthField {s : State} (hs : s.mlen.toNat < 2 ^ 61) {k : Nat} (hk : k < 8) :
    s.padByte (plen s.mlen.toNat - 8 + k) = be64Byte (8 * s.mlen.toNat) k := by
  have hmsg : s.mlen.toNat + 9 ≤ plen s.mlen.toNat := by simp only [plen, nblk]; omega
  have hsrc : padSource s.mlen.toNat (plen s.mlen.toNat - 8 + k) = .fill (be64Byte (8 * s.mlen.toNat) k) := by
    rw [padSource, if_pos ⟨hs, by omega⟩, if_neg (by omega), if_neg (by omega), if_neg (by omega),
      Nat.add_sub_cancel_left]
  rw [State.padByte, hsrc]

/-- A word whose four bytes lie in the length field is made of four bytes of the bit length. -/
theorem State.blockWord_lengthField {s : State} {i : Index} {k : Nat} (hs : s.mlen.toNat < 2 ^ 61) (hk : k ≤ 4)
    (hbase : s.wordBase i = plen s.mlen.toNat - 8 + k) :
    s.blockWord i = be32 (be64Byte (8 * s.mlen.toNat) k) (be64Byte (8 * s.mlen.toNat) (k + 1))
      (be64Byte (8 * s.mlen.toNat) (k + 2)) (be64Byte (8 * s.mlen.toNat) (k + 3)) := by
  have hbyte : ∀ d, d ≤ 3 → s.padByte (s.wordBase i + d) = be64Byte (8 * s.mlen.toNat) (k + d) := fun d hd => by
    rw [hbase, Nat.add_assoc, State.padByte_lengthField hs (by omega)]
  rw [State.blockWord, hbyte 1 (by omega), hbyte 2 (by omega), hbyte 3 (by omega)]
  exact congrArg (be32 · _ _ _) (hbyte 0 (by omega))

/-- In the last block words 14 and 15 take the last eight bytes of the padded message (R71). -/
theorem State.wordBase_lastBlock {s : State} (hlast : s.bidx.toNat + 1 = nblk s.mlen.toNat) :
    s.wordBase 14 = plen s.mlen.toNat - 8 ∧ s.wordBase 15 = plen s.mlen.toNat - 8 + 4 := by
  simp only [State.wordBase, plen, ← hlast]
  refine ⟨?_, ?_⟩ <;> simp <;> omega

end Sys2Proof.Machine

namespace Sys2Proof.Proofs

open Sys2Proof.Machine

/-- Settles O6: `BE32` and its bytes are read as numbers, and the word of a block is `BE32` of its bytes. -/
theorem be32IsBigEndian : Obligations.Be32IsBigEndian :=
  ⟨fun b0 b1 b2 b3 => ⟨be32_toNat b0 b1 b2 b3, beByte_be32 b0 b1 b2 b3 0, beByte_be32 b0 b1 b2 b3 1,
      beByte_be32 b0 b1 b2 b3 2, beByte_be32 b0 b1 b2 b3 3⟩,
    be32_beByte, beByte_toNat, fun s i hi => execWld_readW (by bv_omega) s⟩

/-- Settles O7: the length field lies past the message and the fill, and in the last block it is words 14 and 15. -/
theorem lengthFieldFillsTheLastTwoWords : Obligations.LengthFieldFillsTheLastTwoWords := by
  intro s hs
  refine ⟨fun k hk => (State.padByte_lengthField hs hk).trans (be64Byte_eq _ k), fun hlast => ?_⟩
  obtain ⟨hbase14, hbase15⟩ := State.wordBase_lastBlock hlast
  obtain ⟨t, ht, hw⟩ := execWld_readW (i := 14) (by decide) s
  obtain ⟨t', ht', hw'⟩ := execWld_readW (i := 15) (by decide) s
  refine ⟨⟨t, ht, ?_⟩, ⟨t', ht', ?_⟩⟩
  · rw [hw, State.blockWord_lengthField hs (Nat.zero_le 4) hbase14]
    exact be32_be64Byte_high (by omega)
  · rw [hw', State.blockWord_lengthField hs le_rfl hbase15]
    exact be32_be64Byte_low _

end Sys2Proof.Proofs
end

section
/-! The ALU (40_alu.md R101 to R116): addition, rotation and shift as arithmetic and bit by bit, the four sigma
functions, selection and majority. -/

namespace Sys2Proof.Machine

/-- The value of a sum (R101). -/
theorem add32_toNat (x y : Word) : (add32 x y).toNat = (x.toNat + y.toNat) % 2 ^ 32 := BitVec.toNat_add x y

/-- Order does not matter (R101). -/
theorem add32_comm (x y : Word) : add32 x y = add32 y x := BitVec.add_comm x y

/-- Grouping does not matter (R101, R113). -/
theorem add32_assoc (x y z : Word) : add32 (add32 x y) z = add32 x (add32 y z) := BitVec.add_assoc x y z

/-- The identity (R101). -/
@[simp] theorem add32_zero (x : Word) : add32 x 0 = x := BitVec.add_zero x

/-- The value of a shift (R103). -/
theorem shr_toNat (x : Word) (n : Nat) : (shr x n).toNat = x.toNat / 2 ^ n := by
  rw [shr, BitVec.toNat_ushiftRight, Nat.shiftRight_eq_div_pow]

/-- A bit of a shift (R103). -/
@[simp] theorem shr_getLsbD (x : Word) (n i : Nat) : (shr x n).getLsbD i = x.getLsbD (i + n) := by
  rw [shr, BitVec.getLsbD_ushiftRight, Nat.add_comm]

/-- A bit of a rotation (R102), for any amount. -/
theorem rotr_getLsbD (x : Word) (n : Nat) {i : Nat} (hi : i < 32) :
    (rotr x n).getLsbD i = x.getLsbD ((i + n) % 32) := by
  rw [rotr, BitVec.getLsbD_rotateRight]
  by_cases hlow : i < 32 - n % 32
  · have hidx : (i + n) % 32 = n % 32 + i := by omega
    rw [decide_eq_true hlow, hidx, cond_true]
  · have hidx : (i + n) % 32 = i - (32 - n % 32) := by omega
    rw [decide_eq_false hlow, decide_eq_true hi, hidx, cond_false, Bool.true_and]

/-- The bits that stay and the bits that come round do not meet. -/
theorem ushiftRight_and_shiftLeft_eq_zero (x : Word) (n : Nat) : (x >>> n) &&& (x <<< (32 - n)) = 0#32 := by
  ext i hi
  by_cases hlow : i < 32 - n
  · simp [hlow]
  · have hout : x.getLsbD (n + i) = false := BitVec.getLsbD_of_ge x _ (by omega)
    simp [hout]

/-- A rotation is the sum of what stays and what comes round (R102). -/
theorem rotr_eq_add (x : Word) {n : Nat} (hn : n < 32) : rotr x n = (x >>> n) + (x <<< (32 - n)) := by
  rw [rotr, BitVec.rotateRight_def, Nat.mod_eq_of_lt hn,
    BitVec.add_eq_or_of_and_eq_zero _ _ (ushiftRight_and_shiftLeft_eq_zero x n)]

/-- The value of a rotation (R102). -/
theorem rotr_toNat (x : Word) {n : Nat} (hn : n < 32) :
    (rotr x n).toNat = (x.toNat / 2 ^ n + x.toNat * 2 ^ (32 - n)) % 2 ^ 32 := by
  rw [rotr_eq_add x hn, BitVec.toNat_add, BitVec.toNat_ushiftRight, BitVec.toNat_shiftLeft,
    Nat.shiftRight_eq_div_pow, Nat.shiftLeft_eq, Nat.add_mod_mod]

/-- A bit of three rotations, from the word's own bits (R109, R111). -/
theorem rotations_getLsbD_of_lt (x : Word) (j k l : Nat) {i : Nat} (hi : i < 32) :
    (rotations x j k l).getLsbD i =
      (x.getLsbD ((i + j) % 32) ^^ x.getLsbD ((i + k) % 32) ^^ x.getLsbD ((i + l) % 32)) := by
  simp only [rotations_getLsbD, rotr_getLsbD _ _ hi]

/-- A bit of two rotations and a shift, from the word's own bits (R107, R108). -/
theorem rotationsShift_getLsbD_of_lt (x : Word) (j k l : Nat) {i : Nat} (hi : i < 32) :
    (rotationsShift x j k l).getLsbD i =
      (x.getLsbD ((i + j) % 32) ^^ x.getLsbD ((i + k) % 32) ^^ x.getLsbD (i + l)) := by
  simp only [rotationsShift_getLsbD, rotr_getLsbD _ _ hi, shr_getLsbD]

/-- `Ch` selects, bit by bit (R116). -/
theorem ch_getLsbD (x y z : Word) {i : Nat} (hi : i < 32) :
    (ch x y z).getLsbD i = if x.getLsbD i = true then y.getLsbD i else z.getLsbD i := by
  simp only [ch, BitVec.getLsbD_xor, BitVec.getLsbD_and, BitVec.getLsbD_not, hi]
  cases x.getLsbD i <;> simp

/-- `Maj` votes, bit by bit (R116). -/
theorem maj_getLsbD (x y z : Word) (i : Nat) :
    (maj x y z).getLsbD i = decide (2 ≤ (x.getLsbD i).toNat + (y.getLsbD i).toNat + (z.getLsbD i).toNat) := by
  simp only [maj, BitVec.getLsbD_xor, BitVec.getLsbD_and]
  generalize x.getLsbD i = a, y.getLsbD i = b, z.getLsbD i = c
  decide +revert

/-- The two halves of `Ch` do not meet. -/
theorem and_and_not_and_eq_zero (x y z : Word) : (x &&& y) &&& (~~~x &&& z) = 0#32 := by
  ext i hi
  cases h : x[i] <;> simp [h]

/-- `Ch` in the form with OR (R116). -/
theorem ch_eq_or (x y z : Word) : ch x y z = (x &&& y) ||| (~~~x &&& z) := by
  ext i hi
  cases h : x[i] <;> simp [ch, h]

/-- `Ch` in the form with addition (R116). -/
theorem ch_eq_add (x y z : Word) : ch x y z = (x &&& y) + (~~~x &&& z) := by
  rw [ch_eq_or, BitVec.add_eq_or_of_and_eq_zero _ _ (and_and_not_and_eq_zero x y z)]

/-- `Maj` in the form with OR (R116). -/
theorem maj_eq_or (x y z : Word) : maj x y z = (x &&& y) ||| (x &&& z) ||| (y &&& z) := by
  ext i hi
  cases hx : x[i] <;> cases hy : y[i] <;> simp [maj, hx, hy]

end Sys2Proof.Machine

namespace Sys2Proof.Proofs

open Sys2Proof.Machine

/-- Settles O9: the two shifted parts of a rotation do not meet, so their OR is their sum. -/
theorem rotationIsCircular : Obligations.RotationIsCircular := fun x n _ hn =>
  ⟨rotr_toNat x (Nat.lt_succ_of_le hn), fun _ hi => rotr_getLsbD x n hi⟩

/-- Settles O11: the bits are those of the shared operations; the examples are evaluated. -/
theorem sigmaFunctionsBitByBit : Obligations.SigmaFunctionsBitByBit := by
  refine ⟨fun x i hi => ⟨?ssig0, ?ssig1, ?bsig1, ?bsig0⟩, ?ssig0Values, ?ssig1Values, ?bsig1Values, ?bsig0Values⟩
  case ssig0 => exact rotationsShift_getLsbD_of_lt x 7 18 3 hi
  case ssig1 => exact rotationsShift_getLsbD_of_lt x 17 19 10 hi
  case bsig1 => exact rotations_getLsbD_of_lt x 6 11 25 hi
  case bsig0 => exact rotations_getLsbD_of_lt x 2 13 22 hi
  case ssig0Values => decide
  case ssig1Values => decide
  case bsig1Values => decide
  case bsig0Values => decide

/-- Settles O8: `+32` is addition of 32-bit words. -/
theorem additionIsModulo : Obligations.AdditionIsModulo := fun x y z =>
  ⟨add32_toNat x y, add32_comm x y, add32_assoc x y z, add32_zero x⟩

/-- Settles O10: the bits shifted in lie above the word. -/
theorem shiftIsDivision : Obligations.ShiftIsDivision := fun x n _ _ =>
  ⟨shr_toNat x n, fun i hi => (shr_getLsbD x n i).trans (BitVec.getLsbD_of_ge x _ (by omega))⟩

/-- Settles O12: `Ch` and `Maj` by their bits, and their forms with addition and OR. -/
theorem choiceAndMajorityTables : Obligations.ChoiceAndMajorityTables := fun x y z =>
  ⟨fun i hi => ⟨ch_getLsbD x y z hi, maj_getLsbD x y z i⟩, rfl, rfl,
    ch_eq_add x y z, ch_eq_or x y z, maj_eq_or x y z⟩

end Sys2Proof.Proofs
end

section
/-! The padder (41_padding.md R131 to R138): the zero fill and the padded length as arithmetic, `PadByte` case by case,
and the byte string of the source's procedure, from which the message is read back. -/

namespace Sys2Proof.Machine

/-- The zero fill reaches the place of the length field: 8 bytes short of a whole number of blocks (R131). -/
theorem add_zeroFill_mod (n : Nat) : (n + 1 + zeroFill n) % 64 = 56 := by
  simp only [zeroFill]; omega

/-- No fewer zero bytes reach the place of the length field: R131's "until" stops at the first one. -/
theorem zeroFill_le {n z : Nat} (hz : (n + 1 + z) % 64 = 56) : zeroFill n ≤ z := by
  simp only [zeroFill]; omega

/-- The zero fill is shorter than a block (R131). -/
theorem zeroFill_lt (n : Nat) : zeroFill n < 64 := Nat.mod_lt _ (by decide)

/-- The zero fill within the message's last block (R131). -/
theorem zeroFill_of_le {n : Nat} (hn : n % 64 ≤ 55) : zeroFill n = 55 - n % 64 := by
  simp only [zeroFill]; omega

/-- The zero fill that runs through a further block (R131). -/
theorem zeroFill_of_ge {n : Nat} (hn : 56 ≤ n % 64) : zeroFill n = 119 - n % 64 := by
  simp only [zeroFill]; omega

/-- The padded length is that of the message, the byte 0x80, the zero fill and the length field (R132). -/
theorem plen_eq (n : Nat) : plen n = n + 1 + zeroFill n + 8 := by
  simp only [plen, nblk, zeroFill]; omega

/-- `PadByte` inside the padded message, as R133 writes it. -/
theorem State.padByte_eq {s : State} {j : Nat} (hs : s.mlen.toNat < lengthLimit) (hj : j < plen s.mlen.toNat) :
    s.padByte j =
      if j < s.mlen.toNat then s.readMsg j
      else if j = s.mlen.toNat then 0x80
      else if j < plen s.mlen.toNat - 8 then 0x00
      else be64Byte (8 * s.mlen.toNat) (j - (plen s.mlen.toNat - 8)) := by
  rw [State.padByte, padSource, if_pos ⟨hs, hj⟩]
  split_ifs <;> rfl

/-- The bytes of the message (R133). -/
theorem State.padByte_message {s : State} {j : Nat} (hs : s.mlen.toNat < lengthLimit) (hj : j < s.mlen.toNat) :
    s.padByte j = s.readMsg j := by
  rw [State.padByte_eq hs (hj.trans (lt_plen _)), if_pos hj]

/-- The byte after the message holds the single 1 bit (R133). -/
theorem State.padByte_terminator {s : State} (hs : s.mlen.toNat < lengthLimit) : s.padByte s.mlen.toNat = 0x80 := by
  rw [State.padByte_eq hs (lt_plen _), if_neg (Nat.lt_irrefl _), if_pos rfl]

/-- The zero fill (R133). -/
theorem State.padByte_zeroFill {s : State} {k : Nat} (hs : s.mlen.toNat < lengthLimit) (hk : k < zeroFill s.mlen.toNat) :
    s.padByte (s.mlen.toNat + 1 + k) = 0x00 := by
  have hlen := plen_eq s.mlen.toNat
  rw [State.padByte_eq hs (by omega), if_neg (by omega), if_neg (by omega), if_pos (by omega)]

/-- The source's procedure reaches the padded length (R138). -/
@[simp] theorem paddedMessage_length (m : List Byte) : (paddedMessage m).length = plen m.length := by
  simp [paddedMessage, plen_eq]; omega

/-- The padded message begins with the message (R130). -/
@[simp] theorem paddedMessage_take_length (m : List Byte) : (paddedMessage m).take m.length = m := by
  simp [paddedMessage]

/-- The byte 0x80 stands right after the message (R135). -/
theorem paddedMessage_getElem?_length (m : List Byte) : (paddedMessage m)[m.length]? = some 0x80 := by
  simp [paddedMessage]

/-- The padded message ends with the bit length (R135). -/
theorem paddedMessage_getElem?_lengthField (m : List Byte) {k : Nat} (hk : k < 8) :
    (paddedMessage m)[plen m.length - 8 + k]? = some (be64Byte (8 * m.length) k) := by
  have hlen := plen_eq m.length
  have hidx : plen m.length - 8 + k = (m ++ [0x80] ++ List.replicate (zeroFill m.length) 0x00).length + k := by
    simp; omega
  rw [paddedMessage, hidx, List.getElem?_append_right (Nat.le_add_right _ k), Nat.add_sub_cancel_left]
  simp [hk]

/-- A 64-bit value is determined by its eight bytes (R71). -/
theorem eq_of_be64Byte_eq {v v' : Nat} (hv : v < 2 ^ 64) (hv' : v' < 2 ^ 64)
    (h : ∀ k, k < 8 → be64Byte v k = be64Byte v' k) : v = v' := by
  have hhigh := be32_be64Byte_high hv
  rw [h 0 (by decide), h 1 (by decide), h 2 (by decide), h 3 (by decide), be32_be64Byte_high hv'] at hhigh
  have hlow := be32_be64Byte_low v
  rw [h 4 (by decide), h 5 (by decide), h 6 (by decide), h 7 (by decide), be32_be64Byte_low v'] at hlow
  omega

/-- The length of a message is recovered from the end of the padded message (R135). -/
theorem length_eq_of_paddedMessage_eq {m m' : List Byte} (hm : m.length < 2 ^ 61) (hm' : m'.length < 2 ^ 61)
    (h : paddedMessage m = paddedMessage m') : m.length = m'.length := by
  have hlen : plen m.length = plen m'.length := by
    rw [← paddedMessage_length, h, paddedMessage_length]
  have hbytes : ∀ k, k < 8 → be64Byte (8 * m.length) k = be64Byte (8 * m'.length) k := fun k hk => by
    have hfield := paddedMessage_getElem?_lengthField m hk
    rw [h, hlen, paddedMessage_getElem?_lengthField m' hk] at hfield
    exact (Option.some.inj hfield).symm
  have hbits := eq_of_be64Byte_eq (by omega) (by omega) hbytes
  omega

/-- Padding is injective: the length gives back how much of the padded message is the message (R135). -/
theorem paddedMessage_injective {m m' : List Byte} (hm : m.length < 2 ^ 61) (hm' : m'.length < 2 ^ 61)
    (h : paddedMessage m = paddedMessage m') : m = m' := by
  rw [← paddedMessage_take_length m, h, length_eq_of_paddedMessage_eq hm hm' h, paddedMessage_take_length]

end Sys2Proof.Machine

namespace Sys2Proof.Proofs

open Sys2Proof.Machine

/-- Settles O16: the indices of the padded message fall into the four parts that the procedure appends, and on each part
`PadByte` has one case. -/
theorem padByteIsTheProcedure : Obligations.PadByteIsTheProcedure := by
  intro s hs
  have hlen := plen_eq s.mlen.toNat
  have hmsg : (List.range s.mlen.toNat).map s.padByte = messageIn s.msg s.mlen.toNat :=
    List.map_congr_left fun j hj => State.padByte_message hs (List.mem_range.mp hj)
  have hfill : (List.range (zeroFill s.mlen.toNat)).map (fun k => s.padByte (s.mlen.toNat + 1 + k)) =
      List.replicate (zeroFill s.mlen.toNat) 0x00 :=
    List.eq_replicate_iff.mpr ⟨by simp, by simpa using fun _ => State.padByte_zeroFill hs⟩
  have hfield : (List.range 8).map (fun k => s.padByte (s.mlen.toNat + 1 + zeroFill s.mlen.toNat + k)) =
      (List.range 8).map (be64Byte (8 * s.mlen.toNat)) :=
    List.map_congr_left fun k hk => by
      rw [← State.padByte_lengthField hs (List.mem_range.mp hk), hlen, Nat.add_sub_cancel]
  have hcount : (messageIn s.msg s.mlen.toNat).length = s.mlen.toNat := by simp [messageIn]
  rw [hlen, List.range_add, List.range_add, List.range_succ]
  simp only [List.map_append, List.map_map, Function.comp_def, List.map_cons, List.map_nil]
  rw [hmsg, State.padByte_terminator hs, hfill, hfield, paddedMessage, hcount]

/-- Settles O17: the bounds are those of the zero fill, the bytes are read off the procedure, and the length field with
the bytes it counts gives the message back. -/
theorem paddingProperties : Obligations.PaddingProperties := by
  refine ⟨fun m _ => ?_, fun m m' => paddedMessage_injective⟩
  have hlen := plen_eq m.length
  have hmod := add_zeroFill_mod m.length
  have hlt := zeroFill_lt m.length
  rw [paddedMessage_length]
  refine ⟨by omega, by omega, by omega, by omega, by omega, paddedMessage_getElem?_length m, fun k hk => ?_⟩
  rw [paddedMessage_getElem?_lengthField m hk, be64Byte, Nat.shiftRight_eq_div_pow]

/-- Settles O14: the zero fill by the two cases of `n mod 64` and as a least number, and the padded length as its sum. -/
theorem paddedLengthClosedForm : Obligations.PaddedLengthClosedForm := fun n =>
  ⟨zeroFill_lt n, zeroFill_of_le, zeroFill_of_ge, add_zeroFill_mod n, fun _ => zeroFill_le, plen_eq n,
    Nat.mul_mod_right 64 (nblk n), (Nat.mul_div_cancel_left (nblk n) (by decide)).symm, rfl⟩

/-- Settles O15: `PadByte` is its case split, with the byte of the length field taken by division. -/
theorem padByteCases : Obligations.PadByteCases := by
  intro s j hs hj
  rw [← be64Byte_eq]
  exact State.padByte_eq hs hj

end Sys2Proof.Proofs
end

section
/-! The schedule expander as arithmetic (42_schedule.md R150, R151): the words WLD and WEX stand at, the words they write,
the position each goes to, and what both leave unchanged. -/

namespace Sys2Proof.Machine

/-- The control word of WLD as a number (R74). -/
theorem controlWord_phWld (i : Index) : controlWord phWld i = BitVec.ofNat 9 i.toNat := by
  simp [controlWord_eq_ofNat, phWld]

/-- The control word of WEX as a number (R74). -/
theorem controlWord_phWex (i : Index) : controlWord phWex i = BitVec.ofNat 9 (0x040 + i.toNat) := by
  simp [controlWord_eq_ofNat, phWex]

/-- An index below the last has its number plus one as successor. -/
theorem index_succ_toNat {i : Index} (hi : i.toNat < 63) : (i + 1).toNat = i.toNat + 1 := by
  bv_omega

/-- Where WLD goes, as a number (R184). -/
theorem afterWld_eq_ofNat (i : Index) :
    afterWld i = if i.toNat < 15 then BitVec.ofNat 9 (0x000 + i.toNat + 1) else 0x050#9 := by
  unfold afterWld
  by_cases hi : i.toNat < 15
  · have hlt : i < 15#6 := hi
    rw [if_pos hlt, if_pos hi, controlWord_phWld, index_succ_toNat (by omega), Nat.zero_add]
  · have hge : ¬ i < 15#6 := hi
    rw [if_neg hge, if_neg hi]
    decide

/-- Where WEX goes, as a number (R184). -/
theorem afterWex_eq_ofNat (i : Index) :
    afterWex i = if i.toNat < 63 then BitVec.ofNat 9 (0x040 + i.toNat + 1) else 0x080#9 := by
  unfold afterWex
  by_cases hi : i.toNat < 63
  · have hlt : i < 63#6 := hi
    rw [if_pos hlt, if_pos hi, controlWord_phWex, index_succ_toNat hi, Nat.add_assoc]
  · have hge : ¬ i < 63#6 := hi
    rw [if_neg hge, if_neg hi]
    decide

/-- The word of the block in progress, from the numbers of its four padded bytes (R70, R150). -/
theorem State.blockWord_eq_ofNat (s : State) (i : Index) : s.blockWord i = BitVec.ofNat 32
    ((s.padByte (s.wordBase i)).toNat * 2 ^ 24 + (s.padByte (s.wordBase i + 1)).toNat * 2 ^ 16 +
      (s.padByte (s.wordBase i + 2)).toNat * 2 ^ 8 + (s.padByte (s.wordBase i + 3)).toNat) := by
  rw [← be32_toNat, BitVec.ofNat_toNat, BitVec.setWidth_eq, State.blockWord]

/-- For a length that fits, WLD reads the bytes of its word that lie in the message, ascending (R50). -/
theorem State.wordReads_eq_filter_range' {s : State} (hs : s.mlen.toNat < lengthLimit) (i : Index) :
    s.wordReads i = (List.range' (s.wordBase i) 4).filter fun j => j < s.mlen.toNat := by
  simp only [State.wordReads, padSource_eq_message_iff hs]
  rfl

/-- A schedule word at a distance below `i`: the subtraction of indices does not wrap. -/
theorem State.readW_sub (s : State) {i d : Index} (h : d ≤ i) :
    s.readW (i - d) = s.w[i.toNat - d.toNat] := by
  simp only [State.readW, BitVec.toNat_sub_of_le h]

/-- The four-term sum as one sum of numbers: the order of the additions is immaterial (R113, R151). -/
theorem State.expandWord_eq_ofNat (s : State) {i : Index} (hi : 16 ≤ i.toNat) : s.expandWord i = BitVec.ofNat 32
    (s.w[i.toNat - 16].toNat + (ssig0 s.w[i.toNat - 15]).toNat + s.w[i.toNat - 7].toNat +
      (ssig1 s.w[i.toNat - 2]).toNat) := by
  have h16 : s.readW (i - 16) = s.w[i.toNat - 16] := s.readW_sub (by bv_omega)
  have h15 : s.readW (i - 15) = s.w[i.toNat - 15] := s.readW_sub (by bv_omega)
  have h7 : s.readW (i - 7) = s.w[i.toNat - 7] := s.readW_sub (by bv_omega)
  have h2 : s.readW (i - 2) = s.w[i.toNat - 2] := s.readW_sub (by bv_omega)
  simp only [State.expandWord, h16, h15, h7, h2, add32, BitVec.ofNat_add, BitVec.ofNat_toNat, BitVec.setWidth_eq]

/-- An operation of the schedule that answers writes one schedule word and `UPC` (R150, R151). -/
theorem exec_schedule_next {i : Index} {s t : State} (h : exec (.wld i) s = .next t ∨ exec (.wex i) s = .next t) :
    ∃ x u, t = (s.writeW i x).writeUpc u := by
  obtain h | h := h
  · exact ⟨_, _, (execWld_next h).2⟩
  · exact ⟨_, _, (execWex_next h).2⟩

end Sys2Proof.Machine

namespace Sys2Proof.Proofs

open Sys2Proof.Machine

/-- Settles O23: inside its range WLD answers the two writes of its meaning, each written as its number. -/
theorem wldLoadsItsWord : Obligations.WldLoadsItsWord := by
  intro i s hi
  have hrange : i < 16#6 := Nat.lt_succ_of_le hi
  refine ⟨congrArg Encoded.control (controlWord_phWld i), ?_, fun hs _ => State.wordReads_eq_filter_range' hs i⟩
  have hx : exec (.wld i) s = .next ((s.writeW i (s.blockWord i)).writeUpc (afterWld i)) := if_pos hrange
  rw [hx, State.blockWord_eq_ofNat, afterWld_eq_ofNat]
  rfl

/-- Settles O24: inside its range WEX answers the two writes of its meaning, each written as its number. -/
theorem wexExpandsItsWord : Obligations.WexExpandsItsWord := by
  intro i s hi
  have hrange : 16#6 ≤ i := hi
  refine ⟨congrArg Encoded.control (controlWord_phWex i), ?_⟩
  have hx : exec (.wex i) s = .next ((s.writeW i (s.expandWord i)).writeUpc (afterWex i)) := if_pos hrange
  rw [hx, State.expandWord_eq_ofNat s hi, afterWex_eq_ofNat]
  rfl

/-- Settles O30: both operations write one schedule word and `UPC`, and neither write touches anything else. -/
theorem scheduleFrame : Obligations.ScheduleFrame := by
  intro i s t h
  obtain ⟨x, u, rfl⟩ := exec_schedule_next h
  exact ⟨fun k hk => s.readW_writeW_ne x hk, rfl, rfl, rfl, rfl, rfl, rfl, rfl, rfl, fun _ => rfl⟩

end Sys2Proof.Proofs
end

section
/-! The operations of the compression stage as numbers and words (43_compression.md R161, R162, R164): the positions each
goes to, the round map, and what each leaves unchanged. -/

namespace Sys2Proof.Machine

/-- The control word of RND as a number (R74). -/
theorem controlWord_phRnd (i : Index) : controlWord phRnd i = BitVec.ofNat 9 (0x0C0 + i.toNat) := by
  simp [controlWord_eq_ofNat, phRnd]

/-- Where RND goes, as a number (R184). -/
theorem afterRnd_eq_ofNat (i : Index) :
    afterRnd i = if i.toNat < 63 then BitVec.ofNat 9 (0x0C0 + i.toNat + 1) else 0x100#9 := by
  unfold afterRnd
  by_cases hi : i.toNat < 63
  · have hlt : i < 63#6 := hi
    rw [if_pos hlt, if_pos hi, controlWord_phRnd, index_succ_toNat hi, Nat.add_assoc]
  · have hge : ¬ i < 63#6 := hi
    rw [if_neg hge, if_neg hi]
    decide

/-- The working variables after a round are the round map of those before it (R162). -/
theorem State.roundV_eq_roundMap (s : State) (i : Index) : s.roundV i = roundMap s.v (romK i) (s.readW i) := rfl

/-- An operation of the rounds that answers writes `V` and `UPC` (R161, R162). -/
theorem exec_round_next {i : Index} {s t : State} (h : exec .vinit s = .next t ∨ exec (.rnd i) s = .next t) :
    ∃ x u, t = (s.writeV x).writeUpc u := by
  obtain h | h := h
  · exact ⟨_, _, execVinit_next h⟩
  · exact ⟨_, _, execRnd_next h⟩

/-- ACC completes in every state (R164). -/
theorem execAcc_completes (s : State) : ∃ t, execAcc s = .next t := by
  unfold execAcc
  split
  · exact ⟨_, rfl⟩
  · exact ⟨_, rfl⟩

end Sys2Proof.Machine

namespace Sys2Proof.Proofs

open Sys2Proof.Machine

/-- Settles O26: the round map applied to the eight named variables, and the successor as its number. -/
theorem rndRunsOneRound : Obligations.RndRunsOneRound := by
  intro i s a b c d e f g h t1 t2 hv ht1 ht2
  refine ⟨congrArg Encoded.control (controlWord_phRnd i), ?_⟩
  have hround : s.roundV i = #v[t1 + t2, a, b, c, d + t1, e, f, g] := by
    rw [State.roundV_eq_roundMap, hv, ht1, ht2]
    rfl
  have hx : exec (.rnd i) s = .next ((s.writeV (s.roundV i)).writeUpc (afterRnd i)) := rfl
  rw [hx, hround, afterRnd_eq_ofNat]
  rfl

/-- Settles O27: ACC completes, and each of its two cases is the one its comparison names. -/
theorem accAccumulates : Obligations.AccAccumulates := by
  refine ⟨by decide, fun s => ?_⟩
  obtain ⟨t, hx⟩ := execAcc_completes s
  refine ⟨t, hx, fun j => by rw [execAcc_hash hx j, BitVec.toNat_add], ?_⟩
  have hcount (hfit : s.bidx.toNat + 1 < 2 ^ 56) : (s.bidx + 1).toNat = s.bidx.toNat + 1 :=
    BitVec.toNat_add_of_lt hfit
  obtain ⟨hlast, rfl⟩ | ⟨hlast, rfl⟩ := execAcc_next hx
  · have heq := State.lastBlock_iff.mp hlast
    exact ⟨hcount, fun _ => ⟨rfl, rfl⟩, fun hne => absurd heq hne, rfl, rfl, rfl⟩
  · have hne := State.lastBlock_false_iff.mp hlast
    exact ⟨hcount, fun heq => absurd heq hne, fun _ => ⟨rfl, rfl⟩, rfl, rfl, rfl⟩

/-- Settles O25: VINIT is two writes, and its word and its successor's are constants that evaluate to the numbers
named. -/
theorem vinitCopiesTheHashState : Obligations.VinitCopiesTheHashState := ⟨by decide, fun _ => rfl⟩

/-- Settles O31: both operations write `V` and `UPC`, and neither write touches anything else. -/
theorem roundFrame : Obligations.RoundFrame := by
  intro i s t h
  obtain ⟨x, u, rfl⟩ := exec_round_next h
  exact ⟨rfl, rfl, rfl, rfl, rfl, rfl, rfl, rfl, fun _ => rfl⟩

/-- Settles O32: of the two cases of ACC the one that finalises keeps `UPC`, the other keeps `ST`. -/
theorem accFrame : Obligations.AccFrame := by
  intro s t h
  obtain ⟨_, rfl⟩ | ⟨_, rfl⟩ := execAcc_next h
  · exact ⟨rfl, rfl, rfl, rfl, rfl, rfl, .inr ⟨rfl, rfl⟩, fun _ => rfl⟩
  · exact ⟨rfl, rfl, rfl, rfl, rfl, rfl, .inl rfl, fun _ => rfl⟩

end Sys2Proof.Proofs
end

section
/-! The words of a block and its schedule as lists (30_encoding.md R70, 43_compression.md R166): what the machine reads
of the padded message is the block function's own input. -/

namespace Sys2Proof.Machine

/-- The bytes of the block in progress (R134). -/
def State.block (s : State) : List Byte := blockBytes (paddedMessage (messageIn s.msg s.mlen.toNat)) s.bidx.toNat

/-- The padded message, index by index, is what `PadByte` gives (R138). -/
theorem State.paddedMessage_getD {s : State} (hs : s.mlen.toNat < lengthLimit) {j : Nat} (hj : j < plen s.mlen.toNat) :
    (paddedMessage (messageIn s.msg s.mlen.toNat)).getD j 0 = s.padByte j := by
  rw [← Proofs.padByteIsTheProcedure s hs]
  simp [hj]

/-- Byte `k` of a block, by its index in the padded message (R134). -/
theorem blockBytes_getD (p : List Byte) (t : Nat) {k : Nat} (hk : k < 64) :
    (blockBytes p t).getD k 0 = p.getD (64 * t + k) 0 := by
  simp [blockBytes, List.getD_eq_getElem?_getD, List.getElem?_take_of_lt hk]

/-- Byte `k` of the block in progress is the padder's (R133, R134). -/
theorem State.block_getD {s : State} (hs : s.mlen.toNat < lengthLimit) (hb : s.bidx.toNat < nblk s.mlen.toNat) {k : Nat}
    (hk : k < 64) : s.block.getD k 0 = s.padByte (64 * s.bidx.toNat + k) := by
  have hj : 64 * s.bidx.toNat + k < plen s.mlen.toNat := by simp only [plen]; omega
  rw [State.block, blockBytes_getD _ _ hk, State.paddedMessage_getD hs hj]

/-- A block is sixteen words (R166). -/
@[simp] theorem blockWords_length (blk : List Byte) : (blockWords blk).length = 16 := by simp [blockWords]

/-- The words WLD loads are the words of the block (R150, R166). -/
theorem State.blockWords_getD {s : State} (hs : s.mlen.toNat < lengthLimit) (hb : s.bidx.toNat < nblk s.mlen.toNat)
    {i : Index} (hi : i.toNat < 16) : (blockWords s.block).getD i.toNat 0 = s.blockWord i := by
  have hbyte : ∀ d, d < 4 → s.block.getD (4 * i.toNat + d) 0 = s.padByte (s.wordBase i + d) := fun d hd => by
    rw [State.block_getD hs hb (by omega), State.wordBase, Nat.add_assoc]
  have hword : (blockWords s.block).getD i.toNat 0 = be32 (s.block.getD (4 * i.toNat) 0)
      (s.block.getD (4 * i.toNat + 1) 0) (s.block.getD (4 * i.toNat + 2) 0) (s.block.getD (4 * i.toNat + 3) 0) := by
    simp [blockWords, hi]
  rw [hword, hbyte 1 (by decide), hbyte 2 (by decide), hbyte 3 (by decide)]
  exact congrArg (be32 · _ _ _) (hbyte 0 (by decide))

/-- Extending a schedule keeps the words it has. -/
theorem extendSchedule_getD_of_lt (k : Nat) {ws : List Word} {j : Nat} (hj : j < ws.length) :
    (extendSchedule k ws).getD j 0 = ws.getD j 0 := by
  induction k generalizing ws with
  | zero => rfl
  | succ k ih =>
    rw [extendSchedule, ih (by simp; omega), List.getD_append _ _ _ _ hj]

/-- A further word of a schedule is the four-term sum of earlier words of the same schedule (R166). -/
theorem extendSchedule_getD_of_ge {k : Nat} {ws : List Word} {j : Nat} (h16 : 16 ≤ ws.length) (hj : ws.length ≤ j)
    (hk : j < ws.length + k) :
    (extendSchedule k ws).getD j 0 =
      (extendSchedule k ws).getD (j - 16) 0 + ssig0 ((extendSchedule k ws).getD (j - 15) 0) +
        (extendSchedule k ws).getD (j - 7) 0 + ssig1 ((extendSchedule k ws).getD (j - 2) 0) := by
  induction k generalizing ws with
  | zero => omega
  | succ k ih =>
    obtain rfl | hlt := Nat.eq_or_lt_of_le hj
    · have hkeep : ∀ d, 0 < d → (extendSchedule (k + 1) ws).getD (ws.length - d) 0 = ws.getD (ws.length - d) 0 :=
        fun d hd => extendSchedule_getD_of_lt (k + 1) (by omega)
      have hnew : (extendSchedule (k + 1) ws).getD ws.length 0 = nextScheduleWord ws := by
        rw [extendSchedule, extendSchedule_getD_of_lt k (by simp)]
        simp
      rw [hnew, hkeep 16 (by decide), hkeep 15 (by decide), hkeep 7 (by decide), hkeep 2 (by decide),
        nextScheduleWord]
    · exact ih (by simp; omega) (by simp; omega) (by simp; omega)

/-- The first 16 words of a schedule are those of the block (R166). -/
theorem scheduleOf_getD_of_lt (blk : List Byte) {j : Nat} (hj : j < 16) :
    (scheduleOf blk).getD j 0 = (blockWords blk).getD j 0 :=
  extendSchedule_getD_of_lt 48 (by simpa using hj)

/-- The other 48 words of a schedule are four-term sums (R166). -/
theorem scheduleOf_getD_of_ge (blk : List Byte) {j : Nat} (h16 : 16 ≤ j) (hj : j < 64) :
    (scheduleOf blk).getD j 0 =
      (scheduleOf blk).getD (j - 16) 0 + ssig0 ((scheduleOf blk).getD (j - 15) 0) +
        (scheduleOf blk).getD (j - 7) 0 + ssig1 ((scheduleOf blk).getD (j - 2) 0) :=
  extendSchedule_getD_of_ge (by simp) (by simpa using h16) (by simpa using hj)

/-- The constant of a round, as the block function writes it (R162). -/
theorem kTable_getD (i : Index) : kTable.getD i.toNat 0 = romK i :=
  List.getD_eq_getElem _ _ _

end Sys2Proof.Machine
end

section
/-! Operations one after another, apart from the control flow that selects them (30_encoding.md R80): how runs of
operations are put together, and that the undisturbed engine makes them. -/

namespace Sys2Proof.Machine

/-- `exec` of the operations in order leads from the first state to the second. -/
inductive Execs : List Instr → State → State → Prop where
  | nil (s : State) : Execs [] s s
  | cons {i : Instr} {ops : List Instr} {s t u : State} (hx : exec i s = .next t) (h : Execs ops t u) :
    Execs (i :: ops) s u

/-- One operation. -/
theorem Execs.single {i : Instr} {s t : State} (hx : exec i s = .next t) : Execs [i] s t := .cons hx (.nil t)

/-- Two runs of operations in a row. -/
theorem Execs.append {ops ops' : List Instr} {s t u : State} (h : Execs ops s t) (h' : Execs ops' t u) :
    Execs (ops ++ ops') s u := by
  induction h with
  | nil s => exact h'
  | cons hx _ ih => exact .cons hx (ih h')

/-- The operations of a block number their indices by natural numbers (R81). -/
theorem toNat_ofNat_index {k : Nat} (hk : k < 64) : (BitVec.ofNat 6 k).toNat = k := Nat.mod_eq_of_lt hk

/-- Operations counted by an index: what holds before the first and is carried on by each holds after the last. -/
theorem Execs.of_range {P : Nat → State → Prop} {op : Nat → Instr} {n : Nat} {s : State} (h0 : P 0 s)
    (hop : ∀ k t, k < n → P k t → ∃ u, exec (op k) t = .next u ∧ P (k + 1) u) :
    ∃ t, Execs ((List.range n).map op) s t ∧ P n t := by
  induction n with
  | zero => exact ⟨s, .nil s, h0⟩
  | succ n ih =>
    obtain ⟨t, ht, hP⟩ := ih fun k t hk => hop k t (by omega)
    obtain ⟨u, hu, hP'⟩ := hop n t (by omega) hP
    refine ⟨u, ?_, hP'⟩
    rw [List.range_succ, List.map_append]
    exact ht.append (.single hu)

/-- Along operations of which each leads to the next, the undisturbed engine executes them all. -/
theorem AtOp.run_chain {n b : Nat} {i : Instr} {ops : List Instr} {s t : State} (h : AtOp n b i s)
    (hc : List.IsChain Instr.LeadsTo (i :: ops)) (hx : Execs (i :: ops) s t) :
    Host.Core.run core (i :: ops).length s = .next t := by
  induction ops generalizing i s with
  | nil =>
    obtain _ | ⟨hx, ⟨⟩⟩ := hx
    exact run_succ (h.step_eq.trans hx)
  | cons j ops ih =>
    obtain ⟨hij, hc⟩ := List.isChain_cons_cons.mp hc
    obtain _ | ⟨hx, hrest⟩ := hx
    have hstep := h.step_eq.trans hx
    have hnext := h.after_of_leadsTo hij
    rw [State.after_of_step hstep] at hnext
    rw [List.length_cons, run_succ hstep]
    exact ih hnext hc hrest

end Sys2Proof.Machine
end

section
/-! The block function as an invariant of the operations of a block (43_compression.md R166): the schedule grows word by
word, the rounds run over it, and ACC adds. -/

namespace Sys2Proof.Machine

/-- From `s` only `W` and `UPC` have changed, and `W` holds the first `k` words of the block's schedule. -/
structure Scheduled (s : State) (k : Nat) (t : State) : Prop where
  frame : t = { s with w := t.w, upc := t.upc }
  words : ∀ i : Index, i.toNat < k → t.readW i = (scheduleOf s.block).getD i.toNat 0

/-- From `s` only `V` and `UPC` have changed, and `V` holds the working variables after `k` rounds over the block's
schedule. -/
structure Rounded (s : State) (k : Nat) (t : State) : Prop where
  frame : t = { s with v := t.v, upc := t.upc }
  vars : t.v = roundsOf s.h (scheduleOf s.block) k

section
variable {s t : State} {k : Nat} {i : Index}

/-- Before the first word nothing is asked of `W`. -/
theorem Scheduled.zero (s : State) : Scheduled s 0 s := ⟨rfl, fun _ h => absurd h (Nat.not_lt_zero _)⟩

/-- Writing the next word of the schedule. -/
theorem Scheduled.writeW {x : Word} (h : Scheduled s k t) (hi : i.toNat = k)
    (hx : x = (scheduleOf s.block).getD k 0) (u : ControlWord) :
    Scheduled s (k + 1) ((t.writeW i x).writeUpc u) where
  frame := by rw [h.frame]; rfl
  words j hj := by
    by_cases hij : j = i
    · rw [hij, hi, ← hx]
      exact t.readW_writeW_self i x
    · have hlt : j.toNat < k := by bv_omega
      exact (t.readW_writeW_ne x hij).trans (h.words j hlt)

/-- WLD continues the schedule: it loads from the padded message, which no operation of the block changes. -/
theorem Scheduled.exec_wld (h : Scheduled s k t) (hs : s.mlen.toNat < lengthLimit)
    (hb : s.bidx.toNat < nblk s.mlen.toNat) (hi : i.toNat = k) (hk : k < 16) :
    ∃ u, exec (.wld i) t = .next u ∧ Scheduled s (k + 1) u := by
  have hrange : i < 16#6 := hi.trans_lt hk
  have hword : t.blockWord i = (scheduleOf s.block).getD k 0 := by
    rw [scheduleOf_getD_of_lt _ hk, ← hi, State.blockWords_getD hs hb hrange, h.frame]
    rfl
  exact ⟨_, if_pos hrange, h.writeW hi hword _⟩

/-- WEX continues the schedule: its four taps are words already there. -/
theorem Scheduled.exec_wex (h : Scheduled s k t) (hi : i.toNat = k) (hk : 16 ≤ k) :
    ∃ u, exec (.wex i) t = .next u ∧ Scheduled s (k + 1) u := by
  have htap : ∀ d : Index, 0 < d.toNat → d.toNat ≤ 16 →
      t.readW (i - d) = (scheduleOf s.block).getD (k - d.toNat) 0 := fun d hd hd' => by
    have hsub : (i - d).toNat = k - d.toNat := by bv_omega
    rw [h.words _ (by omega), hsub]
  have hword : t.expandWord i = (scheduleOf s.block).getD k 0 := by
    rw [scheduleOf_getD_of_ge _ hk (hi ▸ i.isLt), State.expandWord, htap 16 (by decide) (by decide),
      htap 15 (by decide) (by decide), htap 7 (by decide) (by decide), htap 2 (by decide) (by decide)]
    rfl
  have hrange : 16#6 ≤ i := hk.trans hi.ge
  exact ⟨_, if_pos hrange, h.writeW hi hword _⟩

/-- SCHED leaves the block's schedule in `W` (R81, R166). -/
theorem execs_schedOps (hs : s.mlen.toNat < lengthLimit) (hb : s.bidx.toNat < nblk s.mlen.toNat) :
    ∃ t, Execs schedOps s t ∧ Scheduled s 64 t := by
  obtain ⟨t, ht, hloaded⟩ := Execs.of_range (P := Scheduled s) (n := 16)
    (op := fun k => .wld (BitVec.ofNat 6 k)) (.zero s)
    fun k t hk h => h.exec_wld hs hb (toNat_ofNat_index (by omega)) hk
  obtain ⟨u, hu, hfull⟩ := Execs.of_range (P := fun k => Scheduled s (16 + k)) (n := 48)
    (op := fun k => .wex (BitVec.ofNat 6 (16 + k))) hloaded
    fun k t hk h => h.exec_wex (toNat_ofNat_index (by omega)) (by omega)
  exact ⟨u, ht.append hu, hfull⟩

/-- VINIT begins the rounds. -/
theorem exec_vinit_rounded (s : State) : ∃ u, exec .vinit s = .next u ∧ Rounded s 0 u :=
  ⟨_, rfl, rfl, rfl⟩

/-- RND runs the next round, over a schedule that is complete. -/
theorem Rounded.exec_rnd (h : Rounded s k t)
    (hw : ∀ i : Index, s.readW i = (scheduleOf s.block).getD i.toNat 0) (hi : i.toNat = k) :
    ∃ u, exec (.rnd i) t = .next u ∧ Rounded s (k + 1) u := by
  have hread : t.readW i = s.readW i := by rw [h.frame]; rfl
  have hround : t.roundV i = roundsOf s.h (scheduleOf s.block) (k + 1) := by
    rw [State.roundV_eq_roundMap, h.vars, hread, hw, roundsOf, ← hi, kTable_getD]
  exact ⟨_, rfl, by rw [h.frame]; rfl, hround⟩

/-- COMPRESS over a complete schedule adds the working variables of 64 rounds to `H` (R81, R166). -/
theorem execs_compressOps (hw : ∀ i : Index, s.readW i = (scheduleOf s.block).getD i.toNat 0) :
    ∃ t, Execs compressOps s t ∧ t.h = compBlock s.h s.block := by
  obtain ⟨t, ht, hinit⟩ := exec_vinit_rounded s
  obtain ⟨u, hu, hrounds⟩ := Execs.of_range (P := Rounded s) (n := 64)
    (op := fun k => .rnd (BitVec.ofNat 6 k)) hinit
    fun k t hk h => h.exec_rnd hw (toNat_ofNat_index hk)
  obtain ⟨w, hx⟩ := execAcc_completes u
  have hh : u.h = s.h := by rw [hrounds.frame]
  have hsum : w.h = addVec u.h u.v := by obtain ⟨_, rfl⟩ | ⟨_, rfl⟩ := execAcc_next hx <;> rfl
  refine ⟨w, (Execs.cons ht hu).append (.single hx), ?_⟩
  rw [hsum, hh, hrounds.vars, compBlock]

/-- BLOCK computes the block function (R81, R166). -/
theorem execs_blockOps (hs : s.mlen.toNat < lengthLimit) (hb : s.bidx.toNat < nblk s.mlen.toNat) :
    ∃ t, Execs blockOps s t ∧ t.h = compBlock s.h s.block := by
  obtain ⟨t, ht, hfull⟩ := execs_schedOps hs hb
  have hh : t.h = s.h := by rw [hfull.frame]
  have hblock : t.block = s.block := by rw [hfull.frame]; rfl
  obtain ⟨u, hu, hcomp⟩ := execs_compressOps (s := t) fun i => by rw [hblock]; exact hfull.words i i.isLt
  exact ⟨u, ht.append hu, by rw [hcomp, hh, hblock]⟩

end

/-- An undisturbed engine at the first operation of a block runs the block and leaves the block function in `H`. -/
theorem AtOp.run_block {n b : Nat} {s : State} (h : AtOp n b (.wld 0) s) (hn : n < lengthLimit) (hb : b < nblk n) :
    ∃ t, Host.Core.run core 130 s = .next t ∧ t.h = compBlock s.h s.block := by
  obtain ⟨t, ht, hcomp⟩ := execs_blockOps (s := s) (h.mlen.symm ▸ hn) (by rw [h.bidx, h.mlen]; exact hb)
  exact ⟨t, h.run_chain (ops := blockOps.tail) blockOps_isChain ht, hcomp⟩

end Sys2Proof.Machine

namespace Sys2Proof.Proofs

open Sys2Proof.Machine

/-- Settles O50: at `UPC` = 0 the engine is about to run the 130 operations of BLOCK, and they compute the block
function. -/
theorem blockComputesTheCompression : Obligations.BlockComputesTheCompression := by
  intro s hst hupc hin hlen hleft
  have hat : AtOp s.mlen.toNat s.bidx.toNat (.wld 0) s := ⟨hst, hin, rfl, rfl, by rw [hupc]; decide⟩
  exact hat.run_block hlen hleft

end Sys2Proof.Proofs
end

section
/-! When an operation answers, and what none of them touches: the boundary inputs still to come and the count of draws
(60_exceptions.md R204, R206, log 4, log 6). -/

namespace Sys2Proof.Machine

/-- START answers in every state (R180, R181, R202). -/
theorem execStart_completes (n : Length) (s : State) : ∃ t, execStart n s = .next t := by
  unfold execStart
  split
  · split
    · exact ⟨_, rfl⟩
    · exact ⟨_, rfl⟩
  · exact ⟨_, rfl⟩

/-- A well-formed operation answers in every state: only an index out of range is refused. -/
theorem exec_completes {i : Instr} (hi : i.wellFormed = true) (s : State) : ∃ t, exec i s = .next t := by
  cases i with
  | start n => exact execStart_completes n s
  | wld ix => exact ⟨_, if_pos (of_decide_eq_true hi)⟩
  | wex ix => exact ⟨_, if_pos (of_decide_eq_true hi)⟩
  | vinit => exact ⟨_, rfl⟩
  | rnd ix => exact ⟨_, rfl⟩
  | acc => exact execAcc_completes s

/-- No operation touches the model's own two fields. -/
theorem exec_model_fields {i : Instr} {s t : State} (h : exec i s = .next t) :
    t.inbox = s.inbox ∧ t.draws = s.draws := by
  cases i with
  | start n => obtain ⟨_, _, rfl⟩ | ⟨_, _, rfl⟩ | ⟨_, rfl⟩ := execStart_next h <;> exact ⟨rfl, rfl⟩
  | wld ix => obtain ⟨_, rfl⟩ := execWld_next h; exact ⟨rfl, rfl⟩
  | wex ix => obtain ⟨_, rfl⟩ := execWex_next h; exact ⟨rfl, rfl⟩
  | vinit => obtain rfl := execVinit_next h; exact ⟨rfl, rfl⟩
  | rnd ix => obtain rfl := execRnd_next h; exact ⟨rfl, rfl⟩
  | acc => obtain ⟨_, rfl⟩ | ⟨_, rfl⟩ := execAcc_next h <;> exact ⟨rfl, rfl⟩

/-- With no reset and no command at the boundary, the engine's own fetch is what it selects (R206). -/
theorem State.fetch_of_no_event {s : State} (hr : s.pins.reset = false) (hgo : goOf s.pins.cmd = false) :
    s.fetch = s.engineFetch := by
  obtain ⟨hr', _⟩ | ⟨_, hgo', _⟩ | ⟨_, _, hf⟩ := s.fetch_cases
  · exact absurd hr' (ne_true_of_eq_false hr)
  · exact absurd hgo' (ne_true_of_eq_false hgo)
  · exact hf

/-- With no reset and no command at the boundary, a running engine runs the operation at `UPC` (R183). -/
theorem step_of_running {s : State} {i : Instr} (hst : s.st = .accumulating) (hr : s.pins.reset = false)
    (hgo : goOf s.pins.cmd = false) (hd : decodeControl s.upc = .ok i) : step s = exec i s.boundary :=
  step_of_run ((State.fetch_of_no_event hr hgo).trans (by simp [State.engineFetch, hst, hd]))

/-- With no reset and no command at the boundary, a step of a machine that is not ACCUMULATING is the boundary alone
(R183). -/
theorem step_of_not_accumulating {s : State} (hst : s.st ≠ .accumulating) (hr : s.pins.reset = false)
    (hgo : goOf s.pins.cmd = false) : step s = .next s.boundary := by
  have hf : s.fetch = .idle := by
    rw [State.fetch_of_no_event hr hgo]
    obtain ⟨_, he⟩ | ⟨h, _⟩ | ⟨h, _⟩ := s.engineFetch_cases
    · exact he
    · exact absurd h hst
    · exact absurd h hst
  simp [step, hf]

/-- With no reset at the boundary, a presented START is what it selects (R206). -/
theorem State.fetch_of_start {s : State} (hr : s.pins.reset = false) (hgo : goOf s.pins.cmd = true) :
    s.fetch = .run (.start (lengthOf s.pins.cmd)) := by
  simp [State.fetch, hr, decodeCommand_of_go hgo]

/-- Reset is selected only when it is asserted (R206). -/
theorem State.pins_reset_of_fetch {s : State} (h : s.fetch = .reset) : s.pins.reset = true := by
  obtain ⟨hr, _⟩ | ⟨_, _, hf⟩ | ⟨_, _, hf⟩ := s.fetch_cases
  · exact hr
  · cases hf.symm.trans h
  · obtain ⟨_, he⟩ | ⟨_, _, _, he⟩ | ⟨_, _, _, he⟩ := s.engineFetch_cases <;> cases (hf.trans he).symm.trans h

/-- With no reset to come there is none at the boundary. -/
theorem State.pins_no_reset {s : State} (h : ∀ x ∈ s.inbox, x.reset = false) : s.pins.reset = false := by
  unfold State.pins
  cases hin : s.inbox with
  | nil => rfl
  | cons x rest => exact h x (hin ▸ List.mem_cons_self)

/-- An operation a boundary selects is well-formed: it was decoded. -/
theorem State.fetch_run_wellFormed {s : State} {i : Instr} (h : s.fetch = .run i) : i.wellFormed = true := by
  obtain ⟨_, hf⟩ | ⟨_, _, hf⟩ | ⟨_, _, hf⟩ := s.fetch_cases
  · cases hf.symm.trans h
  · cases hf.symm.trans h
    rfl
  · obtain ⟨_, he⟩ | ⟨_, j, hd, he⟩ | ⟨_, _, _, he⟩ := s.engineFetch_cases
    · cases (hf.trans he).symm.trans h
    · cases (hf.trans he).symm.trans h
      exact (decodeControl_ok hd).1
    · cases (hf.trans he).symm.trans h

/-- A step at whose boundary an operation is selected answers what the operation answers, and it does answer. -/
theorem step_of_run_completes {s : State} {i : Instr} (h : s.fetch = .run i) :
    ∃ t, step s = .next t ∧ exec i s.boundary = .next t := by
  obtain ⟨t, ht⟩ := exec_completes (State.fetch_run_wellFormed h) s.boundary
  exact ⟨t, (step_of_run h).trans ht, ht⟩

end Sys2Proof.Machine
end

section
/-! Control as a machine of its own (44_control.md R184, R186): the four control registers move by a function of
themselves, the operation and the events at the boundary, so that no data takes part. -/

namespace Sys2Proof.Machine

/-- The registers that steer the engine, with the length they are compared with. -/
structure Control where
  upc : ControlWord
  bidx : BitVec 56
  st : Status
  mlen : Length

/-- The control registers of a state. -/
def State.control (s : State) : Control := ⟨s.upc, s.bidx, s.st, s.mlen⟩

/-- What an operation does to the control registers (R164, R180, R181, R184, R202). -/
def Control.after (i : Instr) (c : Control) : Control :=
  match i with
  | .start n =>
    if c.st.accepts then
      if tooLarge n then { c with st := .faulted, mlen := n } else ⟨controlWord phWld 0, 0, .accumulating, n⟩
    else c
  | .wld ix => { c with upc := afterWld ix }
  | .wex ix => { c with upc := afterWex ix }
  | .vinit => { c with upc := afterVinit }
  | .rnd ix => { c with upc := afterRnd ix }
  | .acc =>
    if c.bidx.toNat + 1 = nblk c.mlen.toNat then { c with bidx := c.bidx + 1, st := .finalized }
    else { c with bidx := c.bidx + 1, upc := nextBlock }

/-- The machine's operations move the control registers as the control machine does, whatever the data. -/
theorem exec_control {i : Instr} {s t : State} (h : exec i s = .next t) : t.control = s.control.after i := by
  cases i with
  | start n =>
    obtain ⟨hacc, hn, rfl⟩ | ⟨hacc, hn, rfl⟩ | ⟨hacc, rfl⟩ := execStart_next h
    · simp [State.control, Control.after, hacc, hn]
    · simp [State.control, Control.after, hacc, hn]
    · simp [State.control, Control.after, hacc]
  | wld ix => obtain ⟨_, rfl⟩ := execWld_next h; rfl
  | wex ix => obtain ⟨_, rfl⟩ := execWex_next h; rfl
  | vinit => obtain rfl := execVinit_next h; rfl
  | rnd ix => obtain rfl := execRnd_next h; rfl
  | acc =>
    obtain ⟨hlast, rfl⟩ | ⟨hlast, rfl⟩ := execAcc_next h
    · exact (if_pos (State.lastBlock_iff.mp hlast)).symm
    · exact (if_neg (State.lastBlock_false_iff.mp hlast)).symm

/-- The part of a boundary's input that can move control: reset and the command, not the bytes placed. -/
def HostInput.event (x : HostInput) : Bool × CommandWord := (x.reset, x.cmd)

/-- Two states agree in everything control depends on. Where a reset is still to come, they agree in the count of draws
too, on which the values of the control registers after it rest (log 4). -/
structure ControlAgrees (s s' : State) : Prop where
  control : s.control = s'.control
  events : s.inbox.map HostInput.event = s'.inbox.map HostInput.event
  draws : s.draws = s'.draws ∨ ∀ x ∈ s.inbox, x.reset = false

section
variable {s s' t t' : State}

/-- The events at the coming boundary are the same. -/
theorem ControlAgrees.pins_event (h : ControlAgrees s s') : s.pins.event = s'.pins.event := by
  have hpins (u : State) : u.pins.event = (u.inbox.map HostInput.event).headD quiet.event := List.headD_map.symm
  rw [hpins, hpins, h.events]

/-- The coming boundary selects the same. -/
theorem ControlAgrees.fetch_eq (h : ControlAgrees s s') : s.fetch = s'.fetch := by
  obtain ⟨hreset, hcmd⟩ := Prod.mk.inj h.pins_event
  obtain ⟨hupc, _, hst, _⟩ := Control.mk.inj h.control
  simp only [State.fetch, State.engineFetch, hreset, hcmd, hupc, hst]

/-- The coming step reads `MSG` at the same indices. -/
theorem ControlAgrees.stepReads_eq (h : ControlAgrees s s') : s.stepReads = s'.stepReads := by
  obtain ⟨_, hbidx, _, hmlen⟩ := Control.mk.inj h.control
  have hreads : s.boundary.wordReads = s'.boundary.wordReads := by
    funext i
    unfold State.wordReads State.wordBase
    rw [State.boundary_bidx, State.boundary_bidx, State.boundary_mlen, State.boundary_mlen, hbidx, hmlen]
  rw [State.stepReads, State.stepReads, h.fetch_eq, hreads]

/-- When reset is selected, the counts of draws agree. -/
theorem ControlAgrees.draws_of_reset (h : ControlAgrees s s') (hf : s.fetch = .reset) : s.draws = s'.draws :=
  h.draws.resolve_right fun hr =>
    absurd (State.pins_reset_of_fetch hf) (ne_true_of_eq_false (State.pins_no_reset hr))

/-- The boundary keeps the agreement. -/
theorem ControlAgrees.boundary (h : ControlAgrees s s') : ControlAgrees s.boundary s'.boundary where
  control := h.control
  events := by simp only [State.boundary_inbox, List.map_tail, h.events]
  draws := h.draws.imp_right fun hr x hx => hr x (List.mem_of_mem_tail hx)

/-- A reset event keeps the agreement of states that draw the same values. -/
theorem ControlAgrees.resetEvent (h : ControlAgrees s s') (hd : s.draws = s'.draws) :
    ControlAgrees s.resetEvent s'.resetEvent where
  control := by simp [State.control, hd]
  events := h.events
  draws := .inl (congrArg (· + 1) hd)

/-- An operation keeps the agreement. -/
theorem ControlAgrees.exec {i : Instr} (h : ControlAgrees s s') (hx : exec i s = .next t)
    (hx' : exec i s' = .next t') : ControlAgrees t t' where
  control := by rw [exec_control hx, exec_control hx', h.control]
  events := by rw [(exec_model_fields hx).1, (exec_model_fields hx').1, h.events]
  draws := by rw [(exec_model_fields hx).1, (exec_model_fields hx).2, (exec_model_fields hx').2]; exact h.draws

/-- A step keeps the agreement, by what its boundary selects; a refused step keeps both states. -/
theorem ControlAgrees.after (h : ControlAgrees s s') : ControlAgrees s.after s'.after := by
  have hf' := h.fetch_eq
  cases hf : s.fetch with
  | reset =>
    rw [State.after_of_step (t := s.boundary.resetEvent) (by simp [step, hf]),
      State.after_of_step (t := s'.boundary.resetEvent) (by simp [step, ← hf', hf])]
    exact h.boundary.resetEvent (h.draws_of_reset hf)
  | run i =>
    obtain ⟨t, hs, hx⟩ := step_of_run_completes hf
    obtain ⟨t', hs', hx'⟩ := step_of_run_completes (hf'.symm.trans hf)
    rw [State.after_of_step hs, State.after_of_step hs']
    exact h.boundary.exec hx hx'
  | idle =>
    rw [State.after_of_step (t := s.boundary) (by simp [step, hf]),
      State.after_of_step (t := s'.boundary) (by simp [step, ← hf', hf])]
    exact h.boundary
  | reserved w =>
    have hs : s.after = s := by simp [State.after, step, hf]
    have hs' : s'.after = s' := by simp [State.after, step, ← hf', hf]
    rwa [hs, hs']

/-- Steps keep the agreement. -/
theorem ControlAgrees.iterate (h : ControlAgrees s s') (k : Nat) :
    ControlAgrees (State.after^[k] s) (State.after^[k] s') := by
  induction k generalizing s s' with
  | zero => exact h
  | succ k ih => exact ih h.after

/-- The traces are the same. -/
theorem ControlAgrees.opsRun_eq (h : ControlAgrees s s') (k : Nat) : opsRun k s = opsRun k s' := by
  induction k generalizing s s' with
  | zero => rfl
  | succ k ih => rw [opsRun, opsRun, h.fetch_eq, ih h.after]

/-- The reads are the same. -/
theorem ControlAgrees.readsRun_eq (h : ControlAgrees s s') (k : Nat) : readsRun k s = readsRun k s' := by
  induction k generalizing s s' with
  | zero => rfl
  | succ k ih => rw [readsRun, readsRun, h.stepReads_eq, ih h.after]

/-- What R186 says of two states that agree in control. -/
theorem ControlAgrees.observables (h : ControlAgrees s s') (k : Nat) :
    opsRun k s = opsRun k s' ∧ readsRun k s = readsRun k s' ∧
    (State.after^[k] s).upc = (State.after^[k] s').upc ∧ (State.after^[k] s).bidx = (State.after^[k] s').bidx ∧
    (State.after^[k] s).st = (State.after^[k] s').st := by
  obtain ⟨hupc, hbidx, hst, _⟩ := Control.mk.inj (h.iterate k).control
  exact ⟨h.opsRun_eq k, h.readsRun_eq k, hupc, hbidx, hst⟩

end

/-- Without resets the events of the coming boundaries are their commands. -/
theorem map_event_of_no_reset {inbox : List HostInput} (h : ∀ x ∈ inbox, x.reset = false) :
    inbox.map HostInput.event = (inbox.map HostInput.cmd).map (Prod.mk false) := by
  rw [List.map_map]
  exact List.map_congr_left fun x hx => congrArg (·, x.cmd) (h x hx)

end Sys2Proof.Machine

namespace Sys2Proof.Proofs

open Sys2Proof.Machine

/-- Settles O47: agreement in control, the boundary inputs and the count of draws is kept by every step. -/
theorem controlIgnoresData : Obligations.ControlIgnoresData := by
  intro k s s' hupc hbidx hst hmlen hin hdraws
  have h : ControlAgrees s s' :=
    ⟨by simp only [State.control, hupc, hbidx, hst, hmlen], by rw [hin], .inl hdraws⟩
  exact h.observables k

/-- Settles O57: with no reset to come the events are the commands, and no draw is made. -/
theorem controlIgnoresDataWithoutReset : Obligations.ControlIgnoresDataWithoutReset := by
  intro k s s' hupc hbidx hst hmlen hcmd hr hr'
  have h : ControlAgrees s s' :=
    ⟨by simp only [State.control, hupc, hbidx, hst, hmlen],
      by rw [map_event_of_no_reset hr, map_event_of_no_reset hr', hcmd], .inr hr⟩
  exact h.observables k

end Sys2Proof.Proofs
end

section
/-! An undisturbed run from START to FINALIZED (44_control.md R185): every step answers, the trace is that of the blocks,
and after the last ACC every block is consumed. -/

namespace Sys2Proof.Machine

/-- A run along which every state answers ends in the last of them. -/
theorem run_eq_iterate {s : State} (k : Nat)
    (h : ∀ j, j < k → step (State.after^[j] s) = .next (State.after^[j + 1] s)) :
    Host.Core.run core k s = .next (State.after^[k] s) := by
  induction k with
  | zero => rfl
  | succ k ih =>
    rw [run_add (ih fun j hj => h j (by omega)), run_succ (h k (by omega))]
    rfl

section
variable {n b : Nat} {i : Instr} {s : State}

/-- An undisturbed engine step answers. -/
theorem AtOp.step_answers (h : AtOp n b i s) : step s = .next s.after := by
  obtain ⟨t, ht⟩ := exec_completes (decodeControl_ok h.op).1 s
  have hs := h.step_eq.trans ht
  rw [State.after_of_step hs, hs]

/-- ACC after the last block finishes the run, with every block consumed. -/
theorem AtOp.after_last_acc (h : AtOp n b .acc s) (hn : n < lengthLimit) (hb : b + 1 = nblk n) :
    s.after.st = .finalized ∧ s.after.bidx.toNat = nblk n := by
  obtain ⟨hst, hin, rfl, rfl, hop⟩ := h
  have hx : execAcc s = .next (((s.writeH s.sumHV).writeBidx (s.bidx + 1)).writeSt .finalized) :=
    if_pos (State.lastBlock_iff.mpr hb)
  rw [State.after_of_step ((step_of_undisturbed hin hst hop).trans hx)]
  exact ⟨rfl, (State.bidx_succ_toNat hn (by omega)).trans hb⟩

/-- BLOCK has 130 operations (R81). -/
theorem blockOps_length : blockOps.length = 130 := by simp [blockOps, schedOps, compressOps]

/-- Within a block the engine is at some operation of it. -/
theorem AtOp.after_within_block {r : Nat} (h : AtOp n b (.wld 0) s) (hr : r < 130) :
    ∃ j, AtOp n b j (State.after^[r] s) := by
  have hlen : (blockOps.tail.take r).length = r :=
    List.length_take_of_le (by rw [List.length_tail, blockOps_length]; omega)
  have hat := h.after_chain (ops := blockOps.tail.take r) (blockOps_isChain.take (r + 1))
  rw [hlen] at hat
  exact ⟨_, hat⟩

/-- Before the run is over, the engine is at some operation, in the block that counts the steps done. -/
theorem AtOp.after_within_run {k : Nat} (h : AtOp n 0 (.wld 0) s) (hn : n < lengthLimit) (hk : k < 130 * nblk n) :
    ∃ j, AtOp n (k / 130) j (State.after^[k] s) := by
  have hblock := h.after_blocks hn (b := k / 130) (by omega)
  obtain ⟨j, hj⟩ := hblock.after_within_block (Nat.mod_lt k (by decide))
  rw [← Function.iterate_add_apply, Nat.mod_add_div] at hj
  exact ⟨j, hj⟩

/-- Up to its end the run answers at every step. -/
theorem AtOp.run_eq_iterate {k : Nat} (h : AtOp n 0 (.wld 0) s) (hn : n < lengthLimit) (hk : k ≤ 130 * nblk n) :
    Host.Core.run core k s = .next (State.after^[k] s) :=
  Machine.run_eq_iterate k fun j hj => by
    obtain ⟨_, hat⟩ := h.after_within_run hn (hj.trans_le hk)
    rw [Function.iterate_succ_apply']
    exact hat.step_answers

/-- The last step of the run finishes it. -/
theorem AtOp.after_run (h : AtOp n 0 (.wld 0) s) (hn : n < lengthLimit) :
    (State.after^[130 * nblk n] s).st = .finalized ∧ (State.after^[130 * nblk n] s).bidx.toNat = nblk n := by
  have hpos : 0 < nblk n := Nat.succ_pos _
  have hlast := h.after_blocks hn (b := nblk n - 1) (by omega)
  have hacc := hlast.after_chain (ops := blockOps.tail) blockOps_isChain
  have hsteps : 130 * nblk n = blockOps.tail.length + 130 * (nblk n - 1) + 1 := by
    rw [List.length_tail, blockOps_length]; omega
  rw [hsteps, Function.iterate_succ_apply', Function.iterate_add_apply]
  exact hacc.after_last_acc hn (by omega)

/-- Along operations of which each leads to the next, the trace is those operations. -/
theorem AtOp.opsRun_chain {ops : List Instr} (h : AtOp n b i s) (hc : List.IsChain Instr.LeadsTo (i :: ops)) :
    opsRun (i :: ops).length s = i :: ops := by
  induction ops generalizing i s with
  | nil => simp [opsRun, h.fetch_eq, Fetched.ops]
  | cons j ops ih =>
    obtain ⟨hij, hc⟩ := List.isChain_cons_cons.mp hc
    rw [List.length_cons, opsRun, h.fetch_eq, ih (h.after_of_leadsTo hij) hc]
    rfl

/-- The trace of the first `k` blocks (R81). -/
theorem AtOp.opsRun_blocks {k : Nat} (h : AtOp n 0 (.wld 0) s) (hn : n < lengthLimit) (hk : k ≤ nblk n) :
    opsRun (130 * k) s = (List.replicate k blockOps).flatten := by
  induction k with
  | zero => rfl
  | succ k ih =>
    have hblock : opsRun 130 (State.after^[130 * k] s) = blockOps :=
      (h.after_blocks hn hk).opsRun_chain (ops := blockOps.tail) blockOps_isChain
    rw [Nat.mul_succ, opsRun_add, ih (by omega), hblock, List.replicate_succ', List.flatten_append,
      List.flatten_singleton]

end

end Sys2Proof.Machine

namespace Sys2Proof.Proofs

open Sys2Proof.Machine

/-- Settles O48: block by block the engine runs the chain of BLOCK, each step answering, and the last ACC finishes. -/
theorem runExecutesTheBlocksInOrder : Obligations.RunExecutesTheBlocksInOrder := by
  intro s hs
  have hat := hs.atOp
  refine ⟨hat.opsRun_blocks hs.length le_rfl, fun k hk => ?_, ?_⟩
  · obtain ⟨_, hk'⟩ := hat.after_within_run hs.length hk
    exact ⟨_, hat.run_eq_iterate hs.length hk.le, hk'.running, hk'.bidx⟩
  · exact ⟨_, hat.run_eq_iterate hs.length le_rfl, hat.after_run hs.length⟩

end Sys2Proof.Proofs
end

section
/-! The digest of a run (44_control.md R188 to R190): the hash state after each block, the START that begins the run, and
the port that shows the result. -/

namespace Sys2Proof.Machine

/-- A list of message bytes has the length it is asked for. -/
@[simp] theorem messageIn_length (mem : List Host.Cell) (n : Nat) : (messageIn mem n).length = n := by
  simp [messageIn]

/-- A step uses up the coming boundary's input and no more. -/
theorem step_inbox {s t : State} (h : step s = .next t) : t.inbox = s.inbox.tail := by
  obtain ⟨_, rfl⟩ | ⟨i, _, hx⟩ | ⟨_, rfl⟩ := step_next h
  · rfl
  · exact (exec_model_fields hx).1
  · rfl

/-- With nothing outside, a step leaves `MSG` as it is, and nothing is outside after it. -/
theorem State.after_of_undisturbed {s : State} (h : s.inbox = []) : s.after.inbox = [] ∧ s.after.msg = s.msg := by
  cases hs : step s with
  | next t =>
    have hmsg := Proofs.engineWritesNoMemory.2 s t hs
    rw [h] at hmsg
    rw [State.after_of_step hs, step_inbox hs, h]
    exact ⟨rfl, hmsg⟩
  | fault r => cases r
  | refused r =>
    have ha : s.after = s := by simp [State.after, hs]
    rw [ha]
    exact ⟨h, rfl⟩

/-- An undisturbed run leaves `MSG` as it is (R41). -/
theorem State.iterate_after_msg {s : State} (h : s.inbox = []) (k : Nat) : (State.after^[k] s).msg = s.msg := by
  induction k generalizing s with
  | zero => rfl
  | succ k ih =>
    obtain ⟨hin, hmsg⟩ := State.after_of_undisturbed h
    exact (ih hin).trans hmsg

/-- After `b` blocks of a run `H` holds the hash state `h_b` of the message (R188). -/
theorem Started.hash_after_blocks {s : State} (hs : Started s) {b : Nat} (hb : b ≤ nblk s.mlen.toNat) :
    (State.after^[130 * b] s).h = hashAfter (paddedMessage (messageIn s.msg s.mlen.toNat)) b := by
  induction b with
  | zero => exact hs.hash
  | succ b ih =>
    have hat := hs.atOp.after_blocks hs.length hb
    have hblock : (State.after^[130 * b] s).block = blockBytes (paddedMessage (messageIn s.msg s.mlen.toNat)) b := by
      rw [State.block, hat.mlen, hat.bidx, State.iterate_after_msg hs.undisturbed]
    obtain ⟨t, ht, hcomp⟩ := hat.run_block hs.length hb
    have hrun := hs.atOp.run_eq_iterate hs.length (k := 130 * b + 130) (by omega)
    rw [run_add (hs.atOp.run_eq_iterate hs.length (by omega)), ht] at hrun
    rw [Nat.mul_succ, ← Host.Outcome.next.inj hrun, hcomp, hblock, ih (by omega), hashAfter]

/-- A START with a length that fits, presented where it is accepted and then left alone, begins a run over the bytes in
`MSG` (R180). -/
theorem step_begins_run {s : State} {n : Length} {p : List (MsgIndex × Byte)} (hst : s.st = .idle ∨ s.st = .finalized)
    (hn : n.toNat < 2 ^ 61) (hin : s.inbox = [⟨false, commandWord 1#1 n, p⟩]) :
    step s = .next (s.boundary.beginRun n) ∧ Started (s.boundary.beginRun n) := by
  have hpins : s.pins = ⟨false, commandWord 1#1 n, p⟩ := by rw [State.pins, hin]; rfl
  have hf : s.fetch = .run (.start n) := by
    rw [State.fetch_of_start (by rw [hpins]) (by rw [hpins]; simp), hpins]
    simp
  have hacc : s.st.accepts = true := Status.accepts_iff.mpr hst
  refine ⟨?_, rfl, rfl, rfl, rfl, hn, by simp [hin]⟩
  rw [step_of_run hf]
  simp [exec, execStart, hacc, tooLarge_false_iff.mpr hn]

/-- From an accepted START left alone the machine reaches FINALIZED with the hash state of the message's last block
(R188). -/
theorem run_of_start {s : State} {n : Length} {p : List (MsgIndex × Byte)} (hst : s.st = .idle ∨ s.st = .finalized)
    (hn : n.toNat < 2 ^ 61) (hin : s.inbox = [⟨false, commandWord 1#1 n, p⟩]) :
    ∃ t, Host.Core.run core (1 + 130 * nblk n.toNat) s = .next t ∧ t.st = .finalized ∧
      t.h = hashAfter (paddedMessage (messageIn (Memory.writeAll s.msg p) n.toNat)) (nblk n.toNat) := by
  obtain ⟨hstep, hs⟩ := step_begins_run hst hn hin
  have hmsg : (s.boundary.beginRun n).msg = Memory.writeAll s.msg p := by simp [State.pins, hin]
  refine ⟨_, ?_, (hs.atOp.after_run hs.length).1, hmsg ▸ hs.hash_after_blocks le_rfl⟩
  rw [Nat.add_comm, run_succ hstep]
  exact hs.atOp.run_eq_iterate hs.length le_rfl

/-- In FINALIZED every read of `DIGEST` shows `H` (R190). -/
theorem State.digestPort_of_finalized {s : State} (h : s.st = .finalized) (r : Nat) : s.digestPort r = imageOf s.h := by
  simp [State.digestPort, State.done, h]

/-- In FINALIZED with the last hash state of a message in `H`, the port shows the digest (R188, R190). -/
theorem State.digestPort_eq_digestOf {s : State} {m : List Byte} (hst : s.st = .finalized)
    (hh : s.h = hashAfter (paddedMessage m) (nblk m.length)) (r : Nat) : s.digestPort r = digestOf m := by
  rw [State.digestPort_of_finalized hst, hh, digestOf]

/-- The image of the hash state is 32 bytes (R73). -/
@[simp] theorem imageOf_length (h : Vector Word 8) : (imageOf h).length = 32 := rfl

/-- Byte `4j + k` of the image is byte `k` of word `j` (R47, R73). -/
theorem imageOf_getElem? (h : Vector Word 8) (j : Fin 8) (k : Fin 4) :
    (imageOf h)[4 * j.val + k.val]? = some (beByte h[j] k) := by
  fin_cases j <;> fin_cases k <;> rfl

/-- The first `n` bytes of two message spaces that read alike below `n`. -/
theorem messageIn_congr {m m' : List Host.Cell} {n : Nat} (h : ∀ j, j < n → Memory.read m j = Memory.read m' j) :
    messageIn m n = messageIn m' n :=
  List.map_congr_left fun j hj => h j (List.mem_range.mp hj)

end Sys2Proof.Machine

namespace Sys2Proof.Proofs

open Sys2Proof.Machine

/-- Settles O51: the START begins a run over the bytes in `MSG`, and each block of it adds the block function. -/
theorem digestOfTheMessage : Obligations.DigestOfTheMessage := by
  intro s n p hst hn hin
  obtain ⟨t, ht, hfin, hh⟩ := run_of_start hst hn hin
  exact ⟨t, ht, hfin, State.digestPort_eq_digestOf hfin (by rw [hh, messageIn_length])⟩

/-- Settles O58: the boundary before lets the bytes land and changes nothing else, so the START hashes them. -/
theorem digestOfTheBytesPlacedBefore : Obligations.DigestOfTheBytesPlacedBefore := by
  intro s n p hst hn hin
  have hpins : s.pins = ⟨false, 0#65, p⟩ := by rw [State.pins, hin]; rfl
  have hidle : s.st ≠ .accumulating := by obtain h | h := hst <;> simp [h]
  have hstep : step s = .next s.boundary :=
    step_of_not_accumulating hidle (by rw [hpins]) (by simp [hpins, goOf])
  have hmsg : s.boundary.msg = Memory.writeAll s.msg p := by rw [State.boundary_msg, hpins]
  obtain ⟨t, ht, hfin, hh⟩ := run_of_start (s := s.boundary) (p := []) hst hn (by simp [hin])
  rw [Memory.writeAll, hmsg] at hh
  refine ⟨t, ?_, hfin, hh, State.digestPort_eq_digestOf hfin (by rw [hh, messageIn_length])⟩
  rw [show 2 + 130 * nblk n.toNat = 1 + 130 * nblk n.toNat + 1 by omega, run_succ hstep]
  exact ht

/-- Settles O52: both runs end with the last hash state of the same message. -/
theorem digestIndependentOfThePast : Obligations.DigestIndependentOfThePast := by
  intro s s' n hst hst' hn hin hin' hbytes
  obtain ⟨t, ht, hfin, hh⟩ := run_of_start hst hn hin
  obtain ⟨t', ht', hfin', hh'⟩ := run_of_start hst' hn hin'
  have hmsg : messageIn s.msg n.toNat = messageIn s'.msg n.toNat := messageIn_congr hbytes
  have hsame : t.h = t'.h := by rw [hh, hh', Memory.writeAll, Memory.writeAll, hmsg]
  refine ⟨t, t', ht, ht', hfin, hfin', fun r r' => ?_⟩
  rw [State.digestPort_of_finalized hfin, State.digestPort_of_finalized hfin', hsame]
  exact ⟨rfl, imageOf_length _⟩

/-- Settles O53: the port shows `H`, whose bytes are taken by division. -/
theorem digestPortShowsTheHash : Obligations.DigestPortShowsTheHash := by
  intro s r hst
  rw [State.digestPort_of_finalized hst]
  refine ⟨imageOf_length s.h, fun j k => ?_⟩
  rw [imageOf_getElem?, ← beByte_toNat, BitVec.ofNat_toNat, BitVec.setWidth_eq]

/-- Settles O55: the step is the boundary alone, which touches neither `ST` nor `H`. -/
theorem digestStaysValid : Obligations.DigestStaysValid := by
  intro s hst hr hgo
  refine ⟨s.boundary, step_of_not_accumulating (by simp [hst]) hr hgo, hst, fun r r' => ?_⟩
  rw [State.digestPort_of_finalized hst, State.digestPort_of_finalized (s := s.boundary) hst, State.boundary_h]

end Sys2Proof.Proofs
end

section
/-! START by its cases (44_control.md R180, R181, 60_exceptions.md R202), and the step at each kind of boundary
(R183, 60_exceptions.md R206). -/

namespace Sys2Proof.Machine

/-- The command word of START as a number: `go` in front of the 64 bits of `n` (R75). -/
theorem commandWord_toNat (n : Length) : (commandWord 1#1 n).toNat = 2 ^ 64 + n.toNat := by
  have hor := Nat.shiftLeft_add_eq_or_of_lt n.isLt 1
  have hn : n.toNat % 2 ^ 65 = n.toNat := Nat.mod_eq_of_lt (by omega)
  rw [commandWord, BitVec.toNat_or, BitVec.toNat_setWidth, hn]
  exact hor.symm

/-- START where it is accepted: the fault or the beginning of a run. -/
theorem execStart_of_accepts {n : Length} {s : State} (hst : s.st = .idle ∨ s.st = .finalized) :
    execStart n s = if 2 ^ 61 ≤ n.toNat then .next (s.takeInputTooLarge n) else .next (s.beginRun n) := by
  rw [execStart, if_pos (Status.accepts_iff.mpr hst)]
  simp only [tooLarge_iff]

/-- START where it is ignored. -/
theorem execStart_of_ignored {n : Length} {s : State} (hst : s.st = .accumulating ∨ s.st = .faulted) :
    execStart n s = .next s :=
  if_neg (ne_true_of_eq_false (Status.accepts_false_iff.mpr hst))

/-- From a state of the invariant every step answers: `UPC` holds no reserved word where it is executed. -/
theorem Inv.step_answers {s : State} (hs : Inv s) : ∃ t, Machine.step s = .next t := by
  cases hf : s.fetch with
  | reset => exact ⟨_, by rw [Machine.step, hf]⟩
  | run i =>
    obtain ⟨t, ht, _⟩ := step_of_run_completes hf
    exact ⟨t, ht⟩
  | idle => exact ⟨_, by rw [Machine.step, hf]⟩
  | reserved w => exact absurd hf (hs.fetch_ne_reserved w)

end Sys2Proof.Machine

namespace Sys2Proof.Proofs

open Sys2Proof.Machine

/-- Settles O42: the one step that does not answer is refused for a reserved word, which the invariant excludes. -/
theorem nothingStopsTheMachine : Obligations.NothingStopsTheMachine := fun _ => Inv.step_answers

/-- Settles O20: IDLE and FINALIZED both accept, and then the length alone decides. -/
theorem startBeginsOrFaults : Obligations.StartBeginsOrFaults :=
  ⟨fun n => ⟨commandWord 1#1 n, rfl, commandWord_toNat n⟩, fun _ _ => execStart_of_accepts⟩

/-- Settles O22: the ignored START answers the same state, and the step runs it past the boundary. -/
theorem startIgnoredWhileBusyOrFaulted : Obligations.StartIgnoredWhileBusyOrFaulted := by
  refine ⟨fun _ _ => execStart_of_ignored, fun n s rest hst hin => ?_⟩
  have hpins : s.pins = ⟨false, commandWord 1#1 n, []⟩ := by rw [State.pins, hin]; rfl
  have hf : s.fetch = .run (.start (lengthOf s.pins.cmd)) :=
    State.fetch_of_start (by rw [hpins]) (by rw [hpins]; simp)
  have hboundary : s.boundary = { s with inbox := rest } := by
    rw [State.boundary, hpins, hin]
    rfl
  rw [step_of_run hf, hboundary]
  exact execStart_of_ignored hst

/-- Settles O29: each of the three things START can do writes only what its case allows. -/
theorem startFrame : Obligations.StartFrame := by
  intro n s t h
  obtain ⟨hacc, hn, rfl⟩ | ⟨hacc, hn, rfl⟩ | ⟨_, rfl⟩ := execStart_next h
  · have hst := Status.accepts_iff.mp hacc
    exact ⟨rfl, rfl, rfl, rfl, fun _ => rfl, fun hne => absurd rfl hne, fun _ => ⟨rfl, rfl, rfl⟩,
      fun hno => absurd hst hno⟩
  · have hst := Status.accepts_iff.mp hacc
    have hfits := tooLarge_false_iff.mp hn
    exact ⟨rfl, rfl, rfl, rfl, fun _ => rfl, fun _ => rfl, fun hno => absurd ⟨hst, hfits⟩ hno,
      fun hno => absurd hst hno⟩
  · exact ⟨rfl, rfl, rfl, rfl, fun _ => rfl, fun _ => rfl, fun _ => ⟨rfl, rfl, rfl⟩, fun _ => ⟨rfl, rfl, rfl⟩⟩

/-- Settles O34: with no event at the boundary the running engine's fetch is the decoder's answer. -/
theorem stepRunsTheDecodedOperation : Obligations.StepRunsTheDecodedOperation := fun _ _ => step_of_running

/-- Settles O37: the boundary passes, and with nothing outside it too changes nothing. -/
theorem noEngineStepUnlessAccumulating : Obligations.NoEngineStepUnlessAccumulating := fun _ hst hr hgo =>
  ⟨step_of_not_accumulating hst hr hgo, fun hin => step_of_quiet_of_not_accumulating hin hst⟩

end Sys2Proof.Proofs
end

section
/-! The transitions of `ST` and the successor of every position, read off the control machine (44_control.md R182,
R184). -/

namespace Sys2Proof.Machine

/-- One control word alone stands for ACC (R76). -/
theorem decodeControl_eq_acc_iff {w : ControlWord} : decodeControl w = .ok .acc ↔ w = 0x100#9 :=
  ⟨fun h => (Encoded.control.inj (decodeControl_ok h).2).symm, fun h => h ▸ rfl⟩

/-- Of the engine's operations only ACC changes `ST`, and only after the last block (R182). -/
theorem Control.after_st {i : Instr} (hi : ∀ n, i ≠ .start n) (c : Control) :
    (c.after i).st = if i = .acc ∧ c.bidx.toNat + 1 = nblk c.mlen.toNat then .finalized else c.st := by
  cases i with
  | start n => exact absurd rfl (hi n)
  | wld _ | wex _ | vinit | rnd _ => simp [Control.after]
  | acc =>
    simp only [Control.after, true_and]
    split_ifs <;> rfl

/-- Of the engine's operations only ACC changes `BIDX` (R184). -/
theorem Control.after_bidx {i : Instr} (hi : ∀ n, i ≠ .start n) (c : Control) :
    (c.after i).bidx = if i = .acc then c.bidx + 1 else c.bidx := by
  cases i with
  | start n => exact absurd rfl (hi n)
  | wld _ | wex _ | vinit | rnd _ => simp [Control.after]
  | acc =>
    simp only [Control.after, if_true]
    split_ifs <;> rfl

/-- The status after a START, by the status before and the length (R180, R181, R182). -/
theorem Control.after_start_st (n : Length) (c : Control) :
    (c.after (.start n)).st =
      if c.st = .idle ∨ c.st = .finalized then if n.toNat < 2 ^ 61 then .accumulating else .faulted
      else c.st := by
  simp only [Control.after, Status.accepts_iff, tooLarge_iff, ← Nat.not_lt]
  split_ifs <;> rfl

/-- Where WLD goes, as a number (R184). -/
theorem afterWld_toNat (i : Index) : (afterWld i).toNat = if i.toNat < 15 then i.toNat + 1 else 0x050 := by
  rw [afterWld_eq_ofNat]
  split_ifs
  · simp; omega
  · rfl

/-- Where WEX goes, as a number (R184). -/
theorem afterWex_toNat (i : Index) : (afterWex i).toNat = if i.toNat < 63 then 0x040 + i.toNat + 1 else 0x080 := by
  rw [afterWex_eq_ofNat]
  split_ifs
  · simp; omega
  · rfl

/-- Where RND goes, as a number (R184). -/
theorem afterRnd_toNat (i : Index) : (afterRnd i).toNat = if i.toNat < 63 then 0x0C0 + i.toNat + 1 else 0x100 := by
  rw [afterRnd_eq_ofNat]
  split_ifs
  · simp; omega
  · rfl

/-- The successor table of R184 as numbers: what follows position `u` in block `b` of a message of `n` bytes. -/
def successorNumber (u b n : Nat) : Nat :=
  if u < 0x00F then u + 1
  else if u = 0x00F then 0x050
  else if u < 0x07F then u + 1
  else if u = 0x07F then 0x080
  else if u = 0x080 then 0x0C0
  else if u < 0x0FF then u + 1
  else if u = 0x0FF then 0x100
  else if b + 1 = nblk n then 0x100 else 0x000

/-- The control machine follows the successor table. -/
theorem Control.after_upc_toNat {i : Instr} {c : Control} (hd : decodeControl c.upc = .ok i) :
    (c.after i).upc.toNat = successorNumber c.upc.toNat c.bidx.toNat c.mlen.toNat := by
  obtain ⟨hwf, henc⟩ := decodeControl_ok hd
  cases i with
  | start n => cases henc
  | wld ix =>
    have hix : ix.toNat < 16 := of_decide_eq_true hwf
    have hupc : c.upc.toNat = ix.toNat := by
      rw [← Encoded.control.inj henc, controlWord_phWld]
      simp; omega
    rw [hupc]
    obtain hlt | hlast : ix.toNat < 15 ∨ ix.toNat = 15 := by omega
    · rw [Control.after, afterWld_toNat, if_pos hlt, successorNumber, if_pos hlt]
    · rw [Control.after, afterWld_toNat, hlast]
      rfl
  | wex ix =>
    have hix : 16 ≤ ix.toNat := of_decide_eq_true hwf
    have hupc : c.upc.toNat = 0x040 + ix.toNat := by
      rw [← Encoded.control.inj henc, controlWord_phWex]
      simp; omega
    rw [hupc]
    obtain hlt | hlast : ix.toNat < 63 ∨ ix.toNat = 63 := by omega
    · rw [Control.after, afterWex_toNat, if_pos hlt, successorNumber, if_neg (by omega), if_neg (by omega),
        if_pos (by omega)]
    · rw [Control.after, afterWex_toNat, hlast]
      rfl
  | vinit =>
    have hupc : c.upc.toNat = 0x080 := by rw [← Encoded.control.inj henc]; rfl
    rw [hupc]
    rfl
  | rnd ix =>
    have hupc : c.upc.toNat = 0x0C0 + ix.toNat := by
      rw [← Encoded.control.inj henc, controlWord_phRnd]
      simp; omega
    rw [hupc]
    obtain hlt | hlast : ix.toNat < 63 ∨ ix.toNat = 63 := by omega
    · rw [Control.after, afterRnd_toNat, if_pos hlt, successorNumber, if_neg (by omega), if_neg (by omega),
        if_neg (by omega), if_neg (by omega), if_neg (by omega), if_pos (by omega)]
    · rw [Control.after, afterRnd_toNat, hlast]
      rfl
  | acc =>
    have hupc : c.upc.toNat = 0x100 := by rw [decodeControl_eq_acc_iff.mp hd]; rfl
    by_cases hlast : c.bidx.toNat + 1 = nblk c.mlen.toNat
    · simp [Control.after, successorNumber, hupc, hlast]
    · simp only [Control.after, successorNumber, hupc, hlast]
      rfl

section
variable {i : Instr} {s t : State}

/-- The status after an executed START. -/
theorem execStart_st {n : Length} (h : execStart n s = .next t) :
    t.st =
      if s.st = .idle ∨ s.st = .finalized then if n.toNat < 2 ^ 61 then .accumulating else .faulted
      else s.st :=
  (congrArg Control.st (exec_control (i := .start n) h)).trans (Control.after_start_st n s.control)

/-- An operation decoded from a control word is ACC exactly when the word is ACC's. -/
theorem decoded_eq_acc_iff {w : ControlWord} (hd : decodeControl w = .ok i) : i = .acc ↔ w = 0x100#9 := by
  simp [← decodeControl_eq_acc_iff, hd]

/-- No operation decoded from a control word is START. -/
theorem decoded_ne_start {w : ControlWord} (hd : decodeControl w = .ok i) (n : Length) : i ≠ .start n :=
  fun h => decodeControl_ne_start w n (h ▸ hd)

/-- The status after the operation at `UPC`. -/
theorem exec_decoded_st {w : ControlWord} (hd : decodeControl w = .ok i) (h : exec i s = .next t) :
    t.st = if w = 0x100#9 ∧ s.bidx.toNat + 1 = nblk s.mlen.toNat then .finalized else s.st := by
  simp only [← decoded_eq_acc_iff hd]
  exact (congrArg Control.st (exec_control h)).trans (Control.after_st (decoded_ne_start hd) s.control)

/-- The block count after the operation at `UPC`. -/
theorem exec_decoded_bidx {w : ControlWord} (hd : decodeControl w = .ok i) (h : exec i s = .next t) :
    t.bidx = if w = 0x100#9 then s.bidx + 1 else s.bidx := by
  simp only [← decoded_eq_acc_iff hd]
  exact (congrArg Control.bidx (exec_control h)).trans (Control.after_bidx (decoded_ne_start hd) s.control)

/-- The position after the operation at `UPC`. -/
theorem exec_decoded_upc (hd : decodeControl s.upc = .ok i) (h : exec i s = .next t) :
    t.upc.toNat = successorNumber s.upc.toNat s.bidx.toNat s.mlen.toNat :=
  (congrArg (fun c => c.upc.toNat) (exec_control h)).trans (Control.after_upc_toNat (c := s.control) hd)

end

end Sys2Proof.Machine

namespace Sys2Proof.Proofs

open Sys2Proof.Machine

/-- Settles O43, by the event at the boundary: reset, a START, an operation of the engine, or nothing. -/
theorem statusTransitions : Obligations.StatusTransitions := by
  intro s t h
  change t.st = if s.pins.reset = true then _ else if goOf s.pins.cmd = true then _ else _
  obtain ⟨hr, rfl⟩ | ⟨hr, hgo, hx⟩ | ⟨hr, hgo, hst, i, hd, hx⟩ | ⟨hr, hgo, hst, rfl⟩ := step_cases h
  · rw [if_pos hr, State.resetEvent_st]
  · rw [if_neg (ne_true_of_eq_false hr), if_pos hgo]
    exact execStart_st (s := s.boundary) hx
  · rw [if_neg (ne_true_of_eq_false hr), if_neg (ne_true_of_eq_false hgo)]
    simpa [hst] using exec_decoded_st (s := s.boundary) hd hx
  · rw [if_neg (ne_true_of_eq_false hr), if_neg (ne_true_of_eq_false hgo), if_neg fun hrun => hst hrun.1,
      State.boundary_st]

/-- Settles O46: the operation at a legal position moves control as the control machine does. -/
theorem successorTable : Obligations.SuccessorTable := by
  intro s hst hin hlegal
  cases hd : decodeControl s.upc with
  | error r => exact absurd hlegal (ne_true_of_eq_false (legalWord_eq_false_iff.mpr ⟨r, hd⟩))
  | ok i =>
    obtain ⟨t, hx⟩ := exec_completes (decodeControl_ok hd).1 s
    have hst' := exec_decoded_st hd hx
    have hbidx := exec_decoded_bidx hd hx
    refine ⟨t, (step_of_undisturbed hin hst hd).trans hx, exec_decoded_upc hd hx, fun hlt => ?_, fun heq => ?_⟩
    · have hne : s.upc ≠ 0x100#9 := fun h => by rw [h] at hlt; exact absurd hlt (by decide)
      exact ⟨by simpa [hne] using hbidx, by simpa [hne, hst] using hst'⟩
    · have hupc : s.upc = 0x100#9 := BitVec.eq_of_toNat_eq heq
      exact ⟨by simpa [hupc] using hbidx, by simp [hst', hupc, hst]⟩

end Sys2Proof.Proofs
end

section
/-! What moves at a boundary, in the order of 60_exceptions.md R206: reset, then a presented START, then, with neither, the
final ACC; and what can follow the fault (R202, R203, R230). -/

namespace Sys2Proof.Machine

/-- With reset at the boundary the step is the reset event, whatever else is there (R206, R230). -/
theorem step_of_reset {s : State} (hr : s.pins.reset = true) : step s = .next s.boundary.resetEvent := by
  have hf : s.fetch = .reset := if_pos hr
  rw [step, hf]

/-- With no reset at the boundary a presented START runs, in every status (R206). -/
theorem step_of_start {s : State} (hr : s.pins.reset = false) (hgo : goOf s.pins.cmd = true) :
    step s = exec (.start (lengthOf s.pins.cmd)) s.boundary :=
  step_of_run (State.fetch_of_start hr hgo)

/-- In FAULTED a step without reset is the boundary alone: a START is ignored, the engine has no step (R181,
R203). -/
theorem step_of_faulted {s : State} (hst : s.st = .faulted) (hr : s.pins.reset = false) :
    step s = .next s.boundary := by
  cases hgo : goOf s.pins.cmd with
  | true => exact (step_of_start hr hgo).trans (execStart_of_ignored (.inr hst))
  | false => exact step_of_not_accumulating (by simp [hst]) hr hgo

/-- A quiet boundary presents no command. -/
theorem goOf_quiet : goOf quiet.cmd = false := by decide

/-- With no event at the boundary, the ACC of the last block finishes the run of the same message (R164, R182). -/
theorem step_of_final_acc {s : State} (hst : s.st = .accumulating) (hupc : s.upc = 0x100#9)
    (hlast : s.bidx.toNat + 1 = nblk s.mlen.toNat) (hr : s.pins.reset = false) (hgo : goOf s.pins.cmd = false) :
    ∃ t, step s = .next t ∧ t.st = .finalized ∧ t.mlen = s.mlen ∧ t.inbox = s.inbox.tail := by
  have hx := (step_of_running hst hr hgo (decodeControl_eq_acc_iff.mpr hupc)).trans
    (if_pos (State.lastBlock_iff (s := s.boundary).mpr hlast))
  exact ⟨_, hx, rfl, rfl, rfl⟩

end Sys2Proof.Machine

namespace Sys2Proof.Proofs

open Sys2Proof.Machine

/-- Settles O38: the ignored START leaves the final ACC to the next boundary; the ACC, taken first, leaves FINALIZED to
the START. -/
theorem startRacesTheFinalAcc : Obligations.StartRacesTheFinalAcc := by
  intro s n hst hupc hlast hn
  constructor
  · have hstart := startIgnoredWhileBusyOrFaulted.2 n { s with inbox := [⟨false, commandWord 1#1 n, []⟩] } []
      (.inl hst) rfl
    obtain ⟨t, hacc, hfin, hmlen, -⟩ := step_of_final_acc (s := { s with inbox := [] }) hst hupc hlast rfl goOf_quiet
    exact ⟨t, (run_succ hstart).trans (run_succ hacc), hfin, hmlen⟩
  · obtain ⟨t, hacc, hfin, -, hin⟩ :=
      step_of_final_acc (s := { s with inbox := [quiet, ⟨false, commandWord 1#1 n, []⟩] }) hst hupc hlast rfl goOf_quiet
    obtain ⟨hstart, -⟩ := step_begins_run (.inr hfin) hn hin
    exact ⟨t.boundary.beginRun n, (run_succ hacc).trans (run_succ hstart), rfl, rfl, rfl⟩

/-- Settles O44: without reset only the boundary passes, and the reset event leaves IDLE and no cause. -/
theorem faultIsStickyUntilReset : Obligations.FaultIsStickyUntilReset := fun _ hst =>
  ⟨step_of_faulted hst, fun hr => ⟨_, step_of_reset hr, rfl, rfl⟩⟩

/-- Settles O21: an accepted START with such a length takes the fault, which writes three registers. -/
theorem tooLargeEntersFault : Obligations.TooLargeEntersFault := fun n s hst hn =>
  ⟨s.takeInputTooLarge n, (execStart_of_accepts hst).trans (if_pos hn), rfl, rfl, rfl, rfl, rfl, rfl, rfl, rfl, rfl⟩

/-- Settles O35: with no reset the presented START is what the boundary selects. -/
theorem stepRunsThePresentedCommand : Obligations.StepRunsThePresentedCommand := fun _ => step_of_start

/-- Settles O36: the step is the reset event, applied after the boundary. -/
theorem resetWinsAndClears : Obligations.ResetWinsAndClears := fun _ hr =>
  ⟨_, step_of_reset hr, rfl, rfl, rfl, rfl⟩

end Sys2Proof.Proofs
end
